-- ==== Sys2Proof/Word.lean ====
section
/-! DEFINITION. The widths of the framer's values: `u8` and `u16` of 00_scope.md R6. There is no signed value. -/

namespace Sys2Proof

/-- `u8` (00_scope.md R6). -/
abbrev Byte := BitVec 8

/-- `u16` (00_scope.md R6). -/
abbrev Word := BitVec 16

end Sys2Proof
end

