-- ==== Sys2Proof/Config.lean ====
section
/-! DEFINITION. What an implementation fixes and what the spec leaves open: the parameters of 00_scope.md R4 and R5, the
external engine's function, and the free values. -/

namespace Sys2Proof

/-- The result of one `BusWrite` (20_memory.md R46). -/
inductive BusResult where
  | ok
  | busError
  deriving DecidableEq, Repr, Inhabited

/-- `TXN`, the transport's transaction state, with the three values of 10_state.md R27. -/
inductive Txn where
  | closed
  | openWrite
  | openRead
  deriving DecidableEq, Repr, Inhabited

/-- The byte arrays a step can index (00_scope.md R7, 20_memory.md R40). -/
inductive Space where
  | rxbuf
  | rnd
  | ser
  deriving DecidableEq, Repr, Inhabited

/-- Which Checksum Engine is attached (00_scope.md R5, `Engine`). `external` is the uninterpreted engine of
40_checksum_sequencer.md R90. `reference` is REFCRC of 93_implementation_defined.md G3, which the spec supplies for
concrete vectors only; PRESUMED (general knowledge, log entry 4), and no reset state selects it. -/
inductive EngineKind where
  | external
  | reference
  deriving DecidableEq, Repr, Inhabited

/-- The configuration: the parameters of 00_scope.md R4, each with the document's (unaudited) literal as its default, and
those of R5, of which only `RXBUF_SIZE` has a default (the spec's own D14). Fixed for the life of the hardware and written
by no step (10_state.md R29). -/
structure Params where
  /-- `DEV_ADDR`, the 7-bit device address (R4; G4 asks to keep it a parameter). -/
  devAddr : BitVec 7 := 0x40#7
  /-- `OVERHEAD`: the bytes of a command frame that are not extra payload (R4, 30_encoding.md R65). -/
  overhead : Byte := 7#8
  /-- `FRAME_STD`: the length of a standard response frame (R4, 30_encoding.md R70). -/
  frameStd : Byte := 4#8
  /-- `FRAME_INFO` (R4, R70). -/
  frameInfo : Byte := 7#8
  /-- `FRAME_SERIAL` (R4, R70). -/
  frameSerial : Byte := 19#8
  /-- `FRAME_RANDOM` (R4, R70). -/
  frameRandom : Byte := 35#8
  /-- `RANDOM_LEN`: the random payload's size in bytes, which is the size of `RND` (R4, 10_state.md R19). -/
  randomLen : Nat := 32
  /-- `T_SELFTEST`, in milliseconds (R4, 44_operations.md R131). -/
  tSelftest : Nat := 32
  /-- `T_RANDOM`, in milliseconds (R4, R131). -/
  tRandom : Nat := 75
  /-- `T_INFO`, in milliseconds (R4, R131). -/
  tInfo : Nat := 1
  /-- `T_SERIAL`, in milliseconds (R4, R131). -/
  tSerial : Nat := 1
  /-- `RXBUF_SIZE`, the receive buffer's capacity in bytes (R5, 10_state.md R16, D14; log entry 18). -/
  rxbufSize : Nat := 252
  /-- `CRC_POLY`: informative to the framer; read by the reference engine only (R4). -/
  crcPoly : Word := 0x8005#16
  /-- `CRC_SEED` (R4, D7). -/
  crcSeed : Word := 0xFFFF#16
  /-- `ST_SUCCESS` (R4). -/
  stSuccess : Byte := 0x00#8
  /-- `SELFTEST_PASS` (R4). -/
  selftestPass : Byte := 0x00#8
  /-- `Engine`. -/
  engine : EngineKind
  /-- `WA_EXECUTE`. -/
  waExecute : Byte
  /-- `FILLER`. -/
  filler : Byte
  /-- `OP_SELFTEST`. -/
  opSelftest : Byte
  /-- `P1_SELFTEST[DRBG]`. -/
  p1SelftestDrbg : Byte
  /-- `P1_SELFTEST[SHA]`. -/
  p1SelftestSha : Byte
  /-- `P1_SELFTEST[DRBG_SHA]`. -/
  p1SelftestDrbgSha : Byte
  /-- `P2_SELFTEST`. -/
  p2Selftest : Word
  /-- `OP_INFO`. -/
  opInfo : Byte
  /-- `P1_INFO`. -/
  p1Info : Byte
  /-- `P2_INFO`. -/
  p2Info : Word
  /-- `OP_RANDOM`. -/
  opRandom : Byte
  /-- `P1_RANDOM`. -/
  p1Random : Byte
  /-- `P2_RANDOM`. -/
  p2Random : Word
  /-- `OP_SERIAL`. -/
  opSerial : Byte
  /-- `P1_SERIAL`. -/
  p1Serial : Byte
  /-- `P2_SERIAL`. -/
  p2Serial : Word
  /-- `ST_PARSE_ERROR`; a name for the host, read by no step (60_exceptions.md R151). -/
  stParseError : Byte
  /-- `ST_SELFTEST_ERROR`; a name for the host, read by no step. -/
  stSelftestError : Byte
  /-- `ST_HEALTHTEST_ERROR`; a name for the host, read by no step. -/
  stHealthtestError : Byte
  /-- `ST_EXECUTION_ERROR`; a name for the host, read by no step. -/
  stExecutionError : Byte
  /-- `ST_AFTER_WAKE`; a name for the host, read by no step. -/
  stAfterWake : Byte
  /-- `ST_BUS_ERROR`, the code of BusError (60_exceptions.md R150). -/
  stBusError : Byte
  /-- `ST_OTHER_ERROR`, the code of OtherError. -/
  stOtherError : Byte
  /-- `ST_INIT_FAIL`, the code of InitFailure. -/
  stInitFail : Byte
  /-- `HOST_BASE`: where the host registers are mapped; read by no step (20_memory.md R41). -/
  hostBase : Nat
  deriving DecidableEq, Repr, Inhabited

/-- The values of the parameters that neither the document nor the spec gives (R5): an opaque constant, so nothing can be
proved of any of them (log entry 3). -/
opaque Config.openParams : Params

/-- The configuration of the reset state: the document's literals for the parameters of R4, the external engine, the
spec's own 252 for `RXBUF_SIZE` (D14), and the open values for the other parameters of R5. -/
def Config.platform : Params :=
  { Config.openParams with
    devAddr := 0x40#7
    overhead := 7#8
    frameStd := 4#8
    frameInfo := 7#8
    frameSerial := 19#8
    frameRandom := 35#8
    randomLen := 32
    tSelftest := 32
    tRandom := 75
    tInfo := 1
    tSerial := 1
    rxbufSize := 252
    crcPoly := 0x8005#16
    crcSeed := 0xFFFF#16
    stSuccess := 0x00#8
    selftestPass := 0x00#8
    engine := .external }

/-- The external engine's answer to `CrcResult` after `CrcInit` of a seed and updates by a list of bytes
(40_checksum_sequencer.md R90): uninterpreted. Every record `E`, `crc_init`, `crc_update`, `crc_result` of R90 induces
such a function, and each such function is one of those records (log entry 4). -/
opaque Config.crcResult : Word → List Byte → Word

/-- FREE VALUE: the result of a `BusWrite` that no script fixes (20_memory.md R47, 93 U2; log entry 5). -/
opaque Config.freeAck : Nat → BusResult

/-- FREE VALUE: the byte of a `BusRead` that no script fixes (20_memory.md R47, 93 U2; log entry 5). -/
opaque Config.freeByte : Nat → Byte

/-- FREE VALUE: `RES.CODE` after a rejected command word (30_encoding.md R72, 93 U13; log entry 8). -/
opaque Config.freeCode : Nat → Byte

/-- FREE VALUE: `TXN` between `BusStart` and `BusAddress`, for which 10_state.md R27 names no value (log entry 9). -/
opaque Config.freeTxn : Nat → Txn

/-- FREE VALUE: what a step reads from a buffer byte that nothing has written since reset (10_state.md R31, 93 U12; log
entry 11). -/
opaque Config.unwritten : Space → Nat → Byte

/-- FREE VALUE: what the host reads from a scalar register that holds no specified value (10_state.md R31, 30_encoding.md
R72, 93 U12, U13; log entry 31), by the register's number, the free values drawn and the events made so far. -/
opaque Config.unspecified : Nat → Nat → Nat → Word

end Sys2Proof
end

