-- ==== Sys2Proof/Machine/State.lean ====
section
/-! DEFINITION. The framer's state as plain data: every register of 10_state.md R10 and R24, the external state its
steps touch (R26, R27), and the model's own fields (the configuration, the outside world's next answers, the trace). -/

namespace Sys2Proof.Machine

/-- `PHASE`, the framer's program counter: the values of the table in 10_state.md R32, in its order (R21). -/
inductive Phase where
  | idle
  | build
  | txCrcInit
  | txStart
  | txAddr
  | txExec
  | txHdrUpd
  | txHdrWr
  | txFillUpd
  | txFillWr
  | txCrcRes
  | txCkLo
  | txCkHi
  | txStop
  | txAbort
  | wait
  | rxCrcInit
  | rxStart
  | rxAddr
  | rxLenRd
  | rxLenUpd
  | rxPayRd
  | rxPayUpd
  | rxCkLo
  | rxCkHi
  | rxStop
  | rxCrcRes
  | classify
  | initmap
  | done
  deriving DecidableEq, Repr, Inhabited

/-- `RES.KIND` (30_encoding.md R74, 60_exceptions.md R150). -/
inductive ResKind where
  | none
  | success
  | status
  | busError
  | otherError
  | initFail
  | rejected
  deriving DecidableEq, Repr, Inhabited

/-- The direction of a bus transaction (00_scope.md R7). -/
inductive Dir where
  | write
  | read
  deriving DecidableEq, Repr, Inhabited

/-- The signal sent to the device after a read byte (20_memory.md R46). -/
inductive AckKind where
  | ack
  | nack
  deriving DecidableEq, Repr, Inhabited

/-- One call of an external primitive, with its arguments and its result (00_scope.md R7, 20_memory.md R50). -/
inductive Event where
  | crcInit (seed : Word)
  | crcUpdate (b : Byte)
  | crcResult (c : Word)
  | busStart
  | busStop
  | busAddress (a : BitVec 7) (dir : Dir)
  | busWrite (b : Byte) (r : BusResult)
  | busRead (k : AckKind) (b : Byte)
  | delayMs (ms : Nat)
  deriving DecidableEq, Repr

/-- `ENG`, the engine's running state (10_state.md R26, 40_checksum_sequencer.md R90), held as what the engine has been
given since the last `CrcInit`: the seed and the bytes fed, oldest first. Every engine's running state is a function of
these two. -/
structure EngineState where
  seed : Word
  fed : List Byte
  deriving DecidableEq, Repr

/-- Which scalar registers a step has written since reset; until then they hold no specified value (10_state.md R31).
The buffers need no mark: an unlisted byte is an unwritten one, and `RES.KIND` says whether `RES.CODE` is specified. The
model's own field (log entry 12). -/
structure Written where
  /-- `PKT.COUNT`, `PKT.OPCODE`, `PKT.PARAM1`, `PKT.PARAM2` and `TXFILL`, which BUILD writes together. -/
  packet : Bool
  pktChecksum : Bool
  frmLength : Bool
  frmChecksum : Bool
  calcReg : Bool
  /-- `INFO.RFU`, `INFO.DEVID`, `INFO.SILID`, `INFO.REV`, which INFO's success arm writes together. -/
  info : Bool
  deriving DecidableEq, Repr

/-- A byte buffer: the bytes written since reset, as (index, byte) pairs with strictly rising indices. An unlisted index
has no value (log entry 11). -/
abbrev Memory := List Host.Cell

/-- The canonical form: strictly rising indices. No listed byte can equal what an unlisted one reads as, since an
unlisted one has no value. -/
abbrev Memory.wf (m : Memory) : Prop := m.Pairwise (fun c d => c.1 < d.1)

/-- The framer, what its steps touch outside it, and the outside world's next answers. -/
@[ext]
structure State where
  /-- `CMD`, register 0 (10_state.md R11). -/
  cmd : Word
  /-- `BUSY`, register 1 (10_state.md R12). -/
  busy : Bool
  /-- `PKT.COUNT`, register 2 (10_state.md R13). -/
  pktCount : Byte
  /-- `PKT.OPCODE`, register 3. -/
  pktOpcode : Byte
  /-- `PKT.PARAM1`, register 4. -/
  pktParam1 : Byte
  /-- `PKT.PARAM2`, register 5. -/
  pktParam2 : Word
  /-- `PKT.CHECKSUM`, register 6. -/
  pktChecksum : Word
  /-- `TXFILL`, register 7 (10_state.md R14). -/
  txfill : Byte
  /-- `FRM.LENGTH`, register 8 (10_state.md R15). -/
  frmLength : Byte
  /-- `FRM.VALID`, register 9. -/
  frmValid : Bool
  /-- `FRM.CHECKSUM`, register 10. -/
  frmChecksum : Word
  /-- `CALC`, register 11. -/
  calcReg : Word
  /-- `RXBUF`, register file 12, of `RXBUF_SIZE` bytes, 252 at reset (10_state.md R16). -/
  rxbuf : Memory
  /-- `RES.KIND`, register 13 (10_state.md R17). -/
  resKind : ResKind
  /-- `RES.CODE`, register 14. -/
  resCode : Byte
  /-- `INFO.RFU`, register 15 (10_state.md R18). -/
  infoRfu : Byte
  /-- `INFO.DEVID`, register 16. -/
  infoDevid : Byte
  /-- `INFO.SILID`, register 17. -/
  infoSilid : Byte
  /-- `INFO.REV`, register 18. -/
  infoRev : Byte
  /-- `RND[0..31]`, register file 19 (10_state.md R19). -/
  rnd : Memory
  /-- `SER[0..15]`, register file 20 (10_state.md R20). -/
  ser : Memory
  /-- `PHASE`, register 21 (10_state.md R21). -/
  phase : Phase
  /-- `IDX`, register 22 (10_state.md R22). -/
  idx : Byte
  /-- `ENG`, the external engine's running state (10_state.md R26). -/
  eng : EngineState
  /-- `TXN`, the transport's transaction state (10_state.md R27). -/
  txn : Txn
  /-- Which registers hold a specified value (10_state.md R31). -/
  written : Written
  /-- The command words the host has still to issue, in order (30_encoding.md R79). Not a queue of the framer, which has
  none (44_operations.md R138): the host's own program. -/
  program : List Word
  /-- The results of the next `BusWrite` calls (20_memory.md R46, R47). When it is empty the results are free values. -/
  acks : List BusResult
  /-- The bytes of the next `BusRead` calls (20_memory.md R46, R47). When it is empty the bytes are free values. -/
  bytes : List Byte
  /-- How many more calls of external primitives return; `none`: all of them (20_memory.md R44, 93 U9). -/
  callsLeft : Option Nat
  /-- How many free values have been drawn. -/
  draws : Nat
  /-- The trace, oldest event first (20_memory.md R50). -/
  trace : List Event
  /-- The configuration (00_scope.md R4, R5); written by no step (10_state.md R29); carried here by log entry 2. -/
  cfg : Params
  deriving DecidableEq, Repr

/-- Why a step stops. Each is raised only in a state the phase table of 10_state.md R32 has no row for, which no run from
reset reaches: its `RXBUF` has room for every payload (`Obligations.EveryStepFromInvariantStatesAnswers`). -/
inductive Fault where
  /-- Raised by a step of a busy phase when `CMD` holds no legal word: no operation is running (10_state.md R11). Safe. -/
  | noOperation
  /-- Raised by the header phases when `IDX` exceeds 4: there is no header byte `h[IDX]` (10_state.md R32). Safe. -/
  | headerIndex
  /-- Raised by `TX_FILL_WR` after a good write when `IDX + 1` exceeds `TXFILL`: the table names no successor
  (10_state.md R32). Safe. -/
  | fillerCount
  /-- Raised by the payload phases when `RXBUF[IDX]` does not exist (10_state.md R16, 20_memory.md R42): the payload is
  longer than the receive buffer (93_implementation_defined.md U4). With 252 bytes no run reaches it. Safe. -/
  | rxbufIndex
  deriving DecidableEq, Repr

/-- Why the model gives no answer. No step refuses; the last three constructors are answers to a host read. -/
inductive Refusal where
  /-- Raised by an arm of `exec` whose instruction has no meaning yet; no arm does. Safe. -/
  | notModelled (mnemonic : String)
  /-- Raised by a host read of any register but `BUSY` while `BUSY = 1` (70_reset_and_hazards.md R179). Safe. -/
  | readWhileBusy
  /-- Raised by a host read of `PHASE` or `IDX`, which are not host-readable (10_state.md R24). Safe. -/
  | notHostReadable
  /-- Raised by a host read of a register number or buffer index that does not exist (10_state.md R24, 20_memory.md
  R42). Safe. -/
  | noSuchRegister
  deriving DecidableEq, Repr

/-- The machine right after reset (10_state.md R31, 70_reset_and_hazards.md R170, R171). The control registers have the
values R31 states; the data registers, which R31 leaves unspecified, hold 0 and are marked unwritten (DESIGN CHOICE, log
entry 10); the buffers list nothing (log entry 11); `TXN` is CLOSED as R31 assumes; `ENG` is DESIGN CHOICE (log entry
13). -/
def State.reset : State where
  cmd := 0x0000#16
  busy := false
  pktCount := 0#8
  pktOpcode := 0#8
  pktParam1 := 0#8
  pktParam2 := 0#16
  pktChecksum := 0#16
  txfill := 0#8
  frmLength := 0#8
  frmValid := false
  frmChecksum := 0#16
  calcReg := 0#16
  rxbuf := []
  resKind := .none
  resCode := 0#8
  infoRfu := 0#8
  infoDevid := 0#8
  infoSilid := 0#8
  infoRev := 0#8
  rnd := []
  ser := []
  phase := .idle
  idx := 0#8
  eng := { seed := 0#16, fed := [] }
  txn := .closed
  written :=
    { packet := false, pktChecksum := false, frmLength := false, frmChecksum := false, calcReg := false, info := false }
  program := []
  acks := []
  bytes := []
  callsLeft := none
  draws := 0
  trace := []
  cfg := Config.platform

end Sys2Proof.Machine
end

