-- ==== Sys2Proof/Machine/Parameters.lean ====
section
/-! DEFINITION. The sizes that the spec fixes and that are no parameter of 00_scope.md R4 and R5: the bytes of `SER`
and the parts of a frame. -/

namespace Sys2Proof.Machine

/-- The bytes of `SER` (10_state.md R20; D16: the whole payload). -/
def serialLen : Nat := 16

/-- The bytes of a response frame that are not payload: length 1, checksum 2 (30_encoding.md R69). -/
def frameOverhead : Nat := 3

/-- The index of the last header byte; the header has 5 bytes (30_encoding.md R64). -/
def lastHeaderIndex : Nat := 4

end Sys2Proof.Machine
end

