-- ==== Sys2Proof/Machine/Engine.lean ====
section
/-! DEFINITION. The Checksum Engine at its interface (40_checksum_sequencer.md R90), and the reference engine REFCRC of
93_implementation_defined.md G3 (general knowledge, PRESUMED, log entry 4), attached only where a configuration says so. -/

namespace Sys2Proof.Machine

/-- REFCRC, one data bit `d` into the register `e`: shift left, and add the polynomial when `d` differs from bit 15
(G3). -/
def refBit (poly e : Word) (d : Bool) : Word :=
  if d != e.getLsbD 15 then (e <<< 1) ^^^ poly else e <<< 1

/-- REFCRC's `crc_update`: the bits of the byte, bit 0 first (G3). -/
def refUpdate (poly e : Word) (b : Byte) : Word :=
  [0, 1, 2, 3, 4, 5, 6, 7].foldl (fun acc i => refBit poly acc (b.getLsbD i)) e

/-- REFCRC over a byte sequence; `crc_init` and `crc_result` are the identity (G3). -/
def refCrc (poly seed : Word) (fed : List Byte) : Word :=
  fed.foldl (refUpdate poly) seed

/-- `crc_init` (R90): nothing fed yet. -/
def engInit (seed : Word) : EngineState :=
  { seed := seed, fed := [] }

/-- `crc_update` (R90). -/
def engUpdate (e : EngineState) (b : Byte) : EngineState :=
  { e with fed := e.fed ++ [b] }

/-- `crc_result` of the attached engine (R90). -/
def engResult (c : Params) (e : EngineState) : Word :=
  match c.engine with
  | .external => Config.crcResult e.seed e.fed
  | .reference => refCrc c.crcPoly e.seed e.fed

/-- `CRC(b0 .. bk-1)`: the checksum of a byte sequence after `crc_init(CRC_SEED)` (R90). -/
def crcOf (c : Params) (bs : List Byte) : Word :=
  engResult c (bs.foldl engUpdate (engInit c.crcSeed))

end Sys2Proof.Machine
end

