-- ==== Sys2Proof/Machine/Flags.lean ====
section
/-! DEFINITION. The flag-like state of 10_state.md R25: the comparison that sets `FRM.VALID`, the pair `RES`, and the
binary code of `RES.KIND` (30_encoding.md R74). `BUSY` is written by acceptance and completion only. -/

namespace Sys2Proof.Machine

/-- `FRM.VALID`: a 16-bit equality of the computed and the received checksum (40_checksum_sequencer.md R95,
43_frame_receiver.md R123). -/
def frameValid (computed received : Word) : Bool := decide (computed = received)

/-- `RES <- (kind, code)` (00_scope.md R7, 10_state.md R17). -/
def setRes (k : ResKind) (c : Byte) (s : State) : State :=
  { s with resKind := k, resCode := c }

/-- The 3-bit code of `RES.KIND` (30_encoding.md R74); 7 is never produced. -/
def resKindCode (k : ResKind) : BitVec 3 :=
  match k with
  | .none => 0#3
  | .success => 1#3
  | .status => 2#3
  | .busError => 3#3
  | .otherError => 4#3
  | .initFail => 5#3
  | .rejected => 6#3

/-- Whether `RES.CODE` holds a specified value (30_encoding.md R72, 93 U13). -/
def resCodeSpecified (k : ResKind) : Bool :=
  match k with
  | .none => false
  | .rejected => false
  | .success => true
  | .status => true
  | .busError => true
  | .otherError => true
  | .initFail => true

end Sys2Proof.Machine
end

