-- ==== Sys2Proof/Syntax.lean ====
section
/-! DEFINITION. The instruction set: the five host operations of 30_encoding.md R61, one constructor per row of
spec/opcode_table.json. -/

namespace Sys2Proof

/-- A host operation (30_encoding.md R61 and R67; mnemonics as R79 spells them). -/
inductive Instr where
  /-- `INIT` (44_operations.md R137). -/
  | init
  /-- `SELFTEST DRBG` (44_operations.md R133). -/
  | selftestDrbg
  /-- `SELFTEST SHA` (44_operations.md R133). -/
  | selftestSha
  /-- `SELFTEST DRBG_SHA` (44_operations.md R133). -/
  | selftestDrbgSha
  /-- `INFO` (44_operations.md R134). -/
  | info
  /-- `RANDOM n`, `n` the filler byte count (44_operations.md R135). -/
  | random (n : Byte)
  /-- `SERIAL` (44_operations.md R136). -/
  | serial
  deriving DecidableEq, Repr

end Sys2Proof
end

