-- ==== Sys2Proof/WellFormed.lean ====
section
/-! DEFINITION. Which operands an operation may carry. -/

namespace Sys2Proof

/-- The largest filler count: only up to 248 does `count = 7 + n` fit 8 bits (30_encoding.md R65, D8). -/
def maxFiller : Nat := 248

/-- An operation is well formed when `RANDOM`'s `n` is at most 248 (30_encoding.md R61, R65, R75). No other operation
has an operand. -/
def Instr.wf (i : Instr) : Bool :=
  match i with
  | .init => true
  | .selftestDrbg => true
  | .selftestSha => true
  | .selftestDrbgSha => true
  | .info => true
  | .random n => decide (n.toNat ≤ maxFiller)
  | .serial => true

end Sys2Proof
end

