-- ==== Sys2Proof/Decode.lean ====
section
/-! DEFINITION. The host command word, format HC (30_encoding.md R62): its fields, the decoder, which is total and
rejects an illegal word by name (R75), and the encoder. -/

namespace Sys2Proof

/-- `w[2:0]`, the operation (30_encoding.md R62). -/
def hcOp (w : Word) : BitVec 3 := w.extractLsb' 0 3

/-- `w[4:3]`, the self-test variant (30_encoding.md R62). -/
def hcVariant (w : Word) : BitVec 2 := w.extractLsb' 3 2

/-- `w[7:5]`, reserved (30_encoding.md R62). -/
def hcReserved (w : Word) : BitVec 3 := w.extractLsb' 5 3

/-- `w[15:8]`, the filler byte count (30_encoding.md R62). -/
def hcFilln (w : Word) : Byte := w.extractLsb' 8 8

/-- Why a command word is illegal: the clauses of 30_encoding.md R75. -/
inductive Illegal where
  /-- `op` is 0, 6 or 7. -/
  | reservedOp
  /-- Bits [7:5] are not 0. -/
  | reservedBits
  /-- `op` = SELFTEST and `variant` = 3. -/
  | reservedVariant
  /-- `op` is not SELFTEST and `variant` is not 0. -/
  | variantOutsideSelftest
  /-- `op` is not RANDOM and `filln` is not 0. -/
  | fillerOutsideRandom
  /-- `op` = RANDOM and `filln` exceeds 248. -/
  | fillerTooLong
  deriving DecidableEq, Repr

/-- The self-test operation a variant selects (30_encoding.md R62: 0 = DRBG, 1 = SHA, 2 = DRBG_SHA, 3 reserved). -/
def decodeVariant (v : BitVec 2) : Except Illegal Instr :=
  if v = 0#2 then .ok .selftestDrbg
  else if v = 1#2 then .ok .selftestSha
  else if v = 2#2 then .ok .selftestDrbgSha
  else .error .reservedVariant

/-- The decoder of host command words (30_encoding.md R62, R75). -/
def decode (w : Word) : Except Illegal Instr :=
  if hcReserved w ≠ 0#3 then .error .reservedBits
  else if hcOp w = 0#3 ∨ hcOp w = 6#3 ∨ hcOp w = 7#3 then .error .reservedOp
  else if hcOp w = 4#3 then
    if hcVariant w ≠ 0#2 then .error .variantOutsideSelftest
    else if (hcFilln w).toNat > maxFiller then .error .fillerTooLong
    else .ok (.random (hcFilln w))
  else if hcFilln w ≠ 0#8 then .error .fillerOutsideRandom
  else if hcOp w = 2#3 then decodeVariant (hcVariant w)
  else if hcVariant w ≠ 0#2 then .error .variantOutsideSelftest
  else if hcOp w = 1#3 then .ok .init
  else if hcOp w = 3#3 then .ok .info
  else .ok .serial

/-- A word from its fields, `filln ‖ reserved ‖ variant ‖ op` with the reserved field 0 (30_encoding.md R62). -/
def hcWord (filln : Byte) (variant : BitVec 2) (op : BitVec 3) : Word :=
  filln ++ (0#3 ++ (variant ++ op))

/-- The command word of an operation (30_encoding.md R62, R67). -/
def encode (i : Instr) : Word :=
  match i with
  | .init => hcWord 0#8 0#2 1#3
  | .selftestDrbg => hcWord 0#8 0#2 2#3
  | .selftestSha => hcWord 0#8 1#2 2#3
  | .selftestDrbgSha => hcWord 0#8 2#2 2#3
  | .info => hcWord 0#8 0#2 3#3
  | .random n => hcWord n 0#2 4#3
  | .serial => hcWord 0#8 0#2 5#3

/-- How an operation is written: its mnemonic and its operand (30_encoding.md R79). -/
def textOf (i : Instr) : String :=
  match i with
  | .init => "INIT"
  | .selftestDrbg => "SELFTEST DRBG"
  | .selftestSha => "SELFTEST SHA"
  | .selftestDrbgSha => "SELFTEST DRBG_SHA"
  | .info => "INFO"
  | .random n => "RANDOM " ++ toString n.toNat
  | .serial => "SERIAL"

/-- The command words of a program: its operations in order (30_encoding.md R79). -/
def assemble (ops : List Instr) : List Word := ops.map encode

/-- The word of an instruction that spec/opcode_table.json numbers: the first `nbits` bits as given, every further bit
0. -/
def tableWord (nbits w : Nat) : Word := BitVec.ofNat 16 (w % 2 ^ nbits)

/-- What the decoder reads from an opcode table row's bits. A command word is one 16-bit word, handed over whole. -/
def decodeTableWord (nbits w : Nat) : Option Instr :=
  match decode (tableWord nbits w) with
  | .ok i => some i
  | .error _ => none

end Sys2Proof
end

