-- ==== Sys2Proof/Machine/Operands.lean ====
section
/-! DEFINITION. The operands of the micro-operations: the byte order of 16-bit fields (30_encoding.md R66), the header
bytes `h[0..4]` (10_state.md R32), the payload count (43_frame_receiver.md R121) and the frame layouts. -/

namespace Sys2Proof.Machine

/-- `w[7:0]`, the byte sent first (00_scope.md R6, 30_encoding.md R66). -/
def loByte (w : Word) : Byte := w.extractLsb' 0 8

/-- `w[15:8]`, the byte sent second. -/
def hiByte (w : Word) : Byte := w.extractLsb' 8 8

/-- `hi ‖ lo` (30_encoding.md R66). -/
def joinBytes (hi lo : Byte) : Word := hi ++ lo

/-- The header bytes in wire order: `count`, `opcode`, `param1`, `param2` low, `param2` high (10_state.md R32,
30_encoding.md R64). -/
def header (s : State) : List Byte :=
  [s.pktCount, s.pktOpcode, s.pktParam1, loByte s.pktParam2, hiByte s.pktParam2]

/-- `h[IDX]`, or nothing where the header has no such byte (10_state.md R32). -/
def headerByte (s : State) : Option Byte :=
  (header s)[s.idx.toNat]?

/-- The command frame before its checksum: header, then the fillers (30_encoding.md R64, 42_frame_transmitter.md R112). -/
def frameBody (s : State) : List Byte :=
  header s ++ List.replicate s.txfill.toNat s.cfg.filler

/-- `m`, the payload count of a declared length: `L - 3`, and 0 below 3 (43_frame_receiver.md R121, D13). -/
def payloadCount (len : Byte) : Nat := len.toNat - frameOverhead

/-- `m` of the frame being received (10_state.md R32). -/
def payloadLen (s : State) : Nat := payloadCount s.frmLength

/-- Whether `IDX` names a byte of `RXBUF` (10_state.md R16, 20_memory.md R42). -/
def idxInRxbuf (s : State) : Bool := decide (s.idx.toNat < s.cfg.rxbufSize)

/-- The size of a buffer (20_memory.md R40). -/
def spaceSize (c : Params) (sp : Space) : Nat :=
  match sp with
  | .rxbuf => c.rxbufSize
  | .rnd => c.randomLen
  | .ser => serialLen

end Sys2Proof.Machine
end

