-- ==== Sys2Proof/Machine/Ops.lean ====
section
/-! DEFINITION. The named operations the phases are made of: the buffers, the external primitives of 00_scope.md R7,
acceptance and rejection of a command word, completion, the BusError abort (the framer's one exception, 60_exceptions.md
R155; there is no return from it, R159), and reset. -/

namespace Sys2Proof.Machine

/-- What a step, or an instruction's part in it, answers. -/
abbrev Answer := Host.Outcome State Fault Refusal

/-! ### The sequencer -/

/-- `PHASE <- p` (00_scope.md R7). -/
def goto (p : Phase) (s : State) : State := { s with phase := p }

/-- `IDX <- v` (10_state.md R22). -/
def setIdx (v : Byte) (s : State) : State := { s with idx := v }

/-! ### The buffers -/

/-- The byte at an index, or nothing where no step has written it (10_state.md R31). -/
def memRead (m : Memory) (i : Nat) : Option Byte :=
  match m with
  | [] => none
  | c :: rest => if c.1 = i then some c.2 else memRead rest i

/-- The buffer with one byte written, in canonical form. -/
def memWrite (m : Memory) (i : Nat) (b : Byte) : Memory :=
  match m with
  | [] => [(i, b)]
  | c :: rest =>
    if i < c.1 then (i, b) :: c :: rest
    else if i = c.1 then (i, b) :: rest
    else c :: memWrite rest i b

/-- A buffer of the state (20_memory.md R40). -/
def buffer (sp : Space) (s : State) : Memory :=
  match sp with
  | .rxbuf => s.rxbuf
  | .rnd => s.rnd
  | .ser => s.ser

/-- `MemRead(space, i, 1)` as a step performs it (00_scope.md R7). A byte that nothing has written since reset reads as
a free value (10_state.md R31, log entry 11). -/
def readByte (sp : Space) (i : Nat) (s : State) : Byte :=
  (memRead (buffer sp s) i).getD (Config.unwritten sp i)

/-- `MemWrite(space, i, 1, b)` (00_scope.md R7). -/
def writeByte (sp : Space) (i : Nat) (b : Byte) (s : State) : State :=
  match sp with
  | .rxbuf => { s with rxbuf := memWrite s.rxbuf i b }
  | .rnd => { s with rnd := memWrite s.rnd i b }
  | .ser => { s with ser := memWrite s.ser i b }

/-- `for i in 0 .. n-1: MemWrite(dst, i, 1, MemRead(RXBUF, i, 1))`, in ascending order (44_operations.md R135, R136). -/
def copyPayload (dst : Space) (n : Nat) (s : State) : State :=
  match n with
  | 0 => s
  | k + 1 =>
    let t := copyPayload dst k s
    writeByte dst k (readByte .rxbuf k t) t

/-! ### The external primitives

Each call is one event of the trace (20_memory.md R50). -/

/-- Append one event to the trace. -/
def emit (e : Event) (s : State) : State := { s with trace := s.trace ++ [e] }

/-- One primitive call fewer will return. -/
def called (s : State) : State := { s with callsLeft := s.callsLeft.map (· - 1) }

/-- A step that calls a primitive ends when the primitive returns (20_memory.md R44). A primitive that never returns
leaves the framer in the phase that made the call, with nothing changed (44_operations.md R139, 93 U9; log entry 6). -/
def withCall (act : State → Answer) (s : State) : Answer :=
  if s.callsLeft = some 0 then .next s else act (called s)

/-- `CrcInit(CRC_SEED)` (40_checksum_sequencer.md R90, R91). -/
def crcInit (s : State) : State :=
  emit (.crcInit s.cfg.crcSeed) { s with eng := engInit s.cfg.crcSeed }

/-- `CrcUpdate(b)` (40_checksum_sequencer.md R90, R92, R93). -/
def crcUpdate (b : Byte) (s : State) : State :=
  emit (.crcUpdate b) { s with eng := engUpdate s.eng b }

/-- The value `CrcResult()` returns (40_checksum_sequencer.md R90); the call does not change `ENG`. -/
def crcValue (s : State) : Word := engResult s.cfg s.eng

/-- The call `CrcResult()` (40_checksum_sequencer.md R94, R95). -/
def crcResult (s : State) : State := emit (.crcResult (crcValue s)) s

/-- `BusStart()` (20_memory.md R44, R45). The value of `TXN` until `BusAddress` is a free value: 10_state.md R27 names
none (log entry 9). -/
def busStart (s : State) : State :=
  emit .busStart { s with txn := Config.freeTxn s.draws, draws := s.draws + 1 }

/-- The transaction a `BusAddress` opens (10_state.md R27). -/
def openedBy (d : Dir) : Txn :=
  match d with
  | .write => .openWrite
  | .read => .openRead

/-- `BusAddress(DEV_ADDR, dir)`; it returns nothing (20_memory.md R43, R45, 10_state.md R27). -/
def busAddress (d : Dir) (s : State) : State :=
  emit (.busAddress s.cfg.devAddr d) { s with txn := openedBy d }

/-- `BusStop()` (20_memory.md R44, 10_state.md R27). -/
def busStop (s : State) : State := emit .busStop { s with txn := .closed }

/-- The result the next `BusWrite` returns (20_memory.md R47): the script's, or a free value. -/
def nextAck (s : State) : BusResult :=
  match s.acks with
  | a :: _ => a
  | [] => Config.freeAck s.draws

/-- The call `BusWrite(b)`, its result consumed (20_memory.md R46). -/
def busWrite (b : Byte) (s : State) : State :=
  emit (.busWrite b (nextAck s))
    { s with acks := s.acks.tail, draws := if s.acks = [] then s.draws + 1 else s.draws }

/-- The byte the next `BusRead` returns (20_memory.md R47): the script's, or a free value. -/
def nextByte (s : State) : Byte :=
  match s.bytes with
  | b :: _ => b
  | [] => Config.freeByte s.draws

/-- The call `BusRead(k)`, its byte consumed (20_memory.md R46). -/
def busRead (k : AckKind) (s : State) : State :=
  emit (.busRead k (nextByte s))
    { s with bytes := s.bytes.tail, draws := if s.bytes = [] then s.draws + 1 else s.draws }

/-- `DelayMs(n)`: an event and nothing else, since the model has no clock (44_operations.md R131, 70 R182). -/
def delayMs (ms : Nat) (s : State) : State := emit (.delayMs ms) s

/-! ### Command words -/

/-- Acceptance of a legal word: `CMD <- w; BUSY <- 1; PHASE <- BUILD` (44_operations.md R138). -/
def accept (w : Word) (s : State) : State :=
  { s with cmd := w, busy := true, phase := .build }

/-- Rejection of an illegal word: `RES.KIND <- REJECTED` and `RES.CODE` unspecified, a free value (60_exceptions.md
R160, 10_state.md R32, 30_encoding.md R72; log entry 8). -/
def reject (s : State) : State :=
  { s with resKind := .rejected, resCode := Config.freeCode s.draws, draws := s.draws + 1 }

/-- The host issues the word `w`. While `BUSY = 1` it changes nothing (44_operations.md R138, 70 R175); otherwise a
legal word is accepted and an illegal one rejected (30_encoding.md R75). -/
def issue (w : Word) (s : State) : State :=
  if s.busy then s
  else match decode w with
    | .ok _ => accept w s
    | .error _ => reject s

/-- Completion, the phase `DONE`: `BUSY <- 0; PHASE <- IDLE` (44_operations.md R139). -/
def complete (s : State) : State := { s with busy := false, phase := .idle }

/-! ### The abort -/

/-- `raise BusError` (60_exceptions.md R155, 42_frame_transmitter.md R111), in the phase `TX_ABORT`: `BusStop()` once
and `RES <- (BUS_ERROR, ST_BUS_ERROR)`. Nothing is saved and no mode changes. -/
def raiseBusError (s : State) : State := setRes .busError s.cfg.stBusError (busStop s)

/-- One `BusWrite` of TRANSMIT: on `busError` the abort phase comes next (42_frame_transmitter.md R111). -/
def writeOrAbort (b : Byte) (onOk : State → Answer) (s : State) : Answer :=
  match nextAck s with
  | .ok => onOk (busWrite b s)
  | .busError => .next (goto .txAbort (busWrite b s))

/-! ### Reset from outside -/

/-- The reset event, from any state (70_reset_and_hazards.md R170): the framer's registers as after reset, no event on
any collaborator, so the transport's `TXN` and the engine's `ENG` stay as they are, and so do the outside world's answers,
the configuration and the trace. -/
def applyReset (s : State) : State :=
  { State.reset with
    eng := s.eng
    txn := s.txn
    program := s.program
    acks := s.acks
    bytes := s.bytes
    callsLeft := s.callsLeft
    draws := s.draws
    trace := s.trace
    cfg := s.cfg }

end Sys2Proof.Machine
end

