-- ==== Sys2Proof/Machine/Build.lean ====
section
/-! DEFINITION. The micro-operation BUILD (41_command_builder.md). -/

namespace Sys2Proof.Machine

/-- BUILD with an operation's constants: `PKT.COUNT = OVERHEAD + n` in 8 bits, and `PKT.CHECKSUM` is not written
(41_command_builder.md R100, 30_encoding.md R65). -/
def buildPacket (opcode param1 : Byte) (param2 : Word) (n : Byte) (s : State) : State :=
  { s with
    pktOpcode := opcode
    pktParam1 := param1
    pktParam2 := param2
    txfill := n
    pktCount := s.cfg.overhead + n
    written := { s.written with packet := true } }

end Sys2Proof.Machine
end

