-- ==== Sys2Proof/Machine/Classify.lean ====
section
/-! DEFINITION. The micro-operations WAIT, CLASSIFY and INITMAP (44_operations.md R131, R132, R137). -/

namespace Sys2Proof.Machine

/-- `WAIT`: `DelayMs(T)`, `T` the operation's settle time (44_operations.md R131). -/
def rowWait (settle : Nat) (s : State) : Answer :=
  withCall (fun t => .next (goto .rxCrcInit (delayMs settle t))) s

/-- CLASSIFY (44_operations.md R132), its three arms in the spec's precedence. `expected` is `EXP(op)`, which SELFTEST
and INIT do not have (30_encoding.md R70); `deliver` copies the payload into the operation's data registers. The byte of
a standard frame is passed through unread (R140). -/
def classifyFrame (expected : Option Byte) (deliver : State → State) (s : State) : State :=
  if s.frmValid = true ∧ s.frmLength = s.cfg.frameStd then setRes .status (readByte .rxbuf 0 s) s
  else if s.frmValid = true ∧ expected = some s.frmLength then setRes .success s.cfg.stSuccess (deliver s)
  else setRes .otherError s.cfg.stOtherError s

/-- INITMAP (44_operations.md R137): only `(STATUS, SELFTEST_PASS)` becomes success (D18). -/
def initMap (s : State) : State :=
  if s.resKind = .status ∧ s.resCode = s.cfg.selftestPass then setRes .success s.cfg.stSuccess s
  else setRes .initFail s.cfg.stInitFail s

end Sys2Proof.Machine
end

