-- ==== Sys2Proof/Machine/Receive.lean ====
section
/-! DEFINITION. The micro-operation RECEIVE (43_frame_receiver.md R120): one definition per row `RX_*` of the phase table
(10_state.md R32). No row can abort: `BusRead` has no error result (R126). -/

namespace Sys2Proof.Machine

/-- `RX_CRCINIT`: `CrcInit(CRC_SEED)` (40_checksum_sequencer.md R91). -/
def rowRxCrcInit (s : State) : Answer :=
  withCall (fun t => .next (goto .rxStart (crcInit t))) s

/-- `RX_START`: `BusStart()`. -/
def rowRxStart (s : State) : Answer :=
  withCall (fun t => .next (goto .rxAddr (busStart t))) s

/-- `RX_ADDR`: `BusAddress(DEV_ADDR, read)`. -/
def rowRxAddr (s : State) : Answer :=
  withCall (fun t => .next (goto .rxLenRd (busAddress .read t))) s

/-- `FRM.LENGTH <- L` (10_state.md R15). -/
def setFrmLength (l : Byte) (s : State) : State :=
  { s with frmLength := l, written := { s.written with frmLength := true } }

/-- `RX_LEN_RD`: `BusRead(ack)`, the first byte read. -/
def rowRxLenRd (s : State) : Answer :=
  withCall (fun t => .next (goto .rxLenUpd (setFrmLength (nextByte t) (busRead .ack t)))) s

/-- `RX_LEN_UPD`: `CrcUpdate(FRM.LENGTH)`; `IDX <- 0` (40_checksum_sequencer.md R93). -/
def rowRxLenUpd (s : State) : Answer :=
  withCall (fun t =>
    .next (goto (if payloadLen t > 0 then .rxPayRd else .rxCkLo) (setIdx 0#8 (crcUpdate t.frmLength t)))) s

/-- `RX_PAY_RD`: `BusRead(ack)` into `RXBUF[IDX]`, where the buffer has that byte (43_frame_receiver.md R124; 93 U4). -/
def rowRxPayRd (s : State) : Answer :=
  withCall (fun t =>
    if idxInRxbuf t then .next (goto .rxPayUpd (writeByte .rxbuf t.idx.toNat (nextByte t) (busRead .ack t)))
    else .fault .rxbufIndex) s

/-- `RX_PAY_UPD`: `CrcUpdate(RXBUF[IDX])`; `IDX <- IDX + 1` (40_checksum_sequencer.md R93). -/
def rowRxPayUpd (s : State) : Answer :=
  if idxInRxbuf s then
    withCall (fun t =>
      .next (goto (if t.idx.toNat + 1 < payloadLen t then .rxPayRd else .rxCkLo)
        (setIdx (t.idx + 1#8) (crcUpdate (readByte .rxbuf t.idx.toNat t) t)))) s
  else .fault .rxbufIndex

/-- `FRM.CHECKSUM[7:0] <- lo` (30_encoding.md R66). -/
def setFrmChecksumLo (lo : Byte) (s : State) : State :=
  { s with frmChecksum := joinBytes (hiByte s.frmChecksum) lo }

/-- `FRM.CHECKSUM[15:8] <- hi` (30_encoding.md R66). -/
def setFrmChecksumHi (hi : Byte) (s : State) : State :=
  { s with
    frmChecksum := joinBytes hi (loByte s.frmChecksum)
    written := { s.written with frmChecksum := true } }

/-- `RX_CK_LO`: `BusRead(ack)`, the first trailing byte. -/
def rowRxCkLo (s : State) : Answer :=
  withCall (fun t => .next (goto .rxCkHi (setFrmChecksumLo (nextByte t) (busRead .ack t)))) s

/-- `RX_CK_HI`: `BusRead(nack)`, the last byte of the transaction (43_frame_receiver.md R122). -/
def rowRxCkHi (s : State) : Answer :=
  withCall (fun t => .next (goto .rxStop (setFrmChecksumHi (nextByte t) (busRead .nack t)))) s

/-- `RX_STOP`: `BusStop()`. -/
def rowRxStop (s : State) : Answer :=
  withCall (fun t => .next (goto .rxCrcRes (busStop t))) s

/-- `CALC <- c; FRM.VALID <- (c = FRM.CHECKSUM)` (40_checksum_sequencer.md R95). -/
def setCalc (c : Word) (s : State) : State :=
  { s with
    calcReg := c
    frmValid := frameValid c s.frmChecksum
    written := { s.written with calcReg := true } }

/-- `RX_CRCRES`: `CrcResult()` after the transaction is closed (40_checksum_sequencer.md R95). -/
def rowRxCrcRes (s : State) : Answer :=
  withCall (fun t => .next (goto .classify (setCalc (crcValue t) (crcResult t)))) s

end Sys2Proof.Machine
end

