-- ==== Sys2Proof/Machine/Transmit.lean ====
section
/-! DEFINITION. The micro-operation TRANSMIT (42_frame_transmitter.md R110): one definition per row `TX_*` of the phase
table (10_state.md R32). In the successor column `IDX` is the value before the step's own increment. -/

namespace Sys2Proof.Machine

/-- `TX_CRCINIT`: `CrcInit(CRC_SEED)` (40_checksum_sequencer.md R91). -/
def rowTxCrcInit (s : State) : Answer :=
  withCall (fun t => .next (goto .txStart (crcInit t))) s

/-- `TX_START`: `BusStart()`. -/
def rowTxStart (s : State) : Answer :=
  withCall (fun t => .next (goto .txAddr (busStart t))) s

/-- `TX_ADDR`: `BusAddress(DEV_ADDR, write)`. -/
def rowTxAddr (s : State) : Answer :=
  withCall (fun t => .next (goto .txExec (busAddress .write t))) s

/-- `TX_EXEC`: `BusWrite(WA_EXECUTE)`, not fed to the engine (42_frame_transmitter.md R115); `IDX <- 0`. -/
def rowTxExec (s : State) : Answer :=
  withCall (fun t => writeOrAbort t.cfg.waExecute (fun u => .next (goto .txHdrUpd u)) (setIdx 0#8 t)) s

/-- `TX_HDR_UPD`: `CrcUpdate(h[IDX])` (40_checksum_sequencer.md R92). -/
def rowTxHdrUpd (s : State) : Answer :=
  match headerByte s with
  | none => .fault .headerIndex
  | some b => withCall (fun t => .next (goto .txHdrWr (crcUpdate b t))) s

/-- After a header byte was written: the next one, or the fillers, or the checksum. -/
def afterHeaderWrite (s : State) : Answer :=
  if s.idx.toNat < lastHeaderIndex then .next (goto .txHdrUpd (setIdx (s.idx + 1#8) s))
  else if s.txfill.toNat > 0 then .next (goto .txFillUpd (setIdx 0#8 s))
  else .next (goto .txCrcRes (setIdx 0#8 s))

/-- `TX_HDR_WR`: `BusWrite(h[IDX])`. -/
def rowTxHdrWr (s : State) : Answer :=
  match headerByte s with
  | none => .fault .headerIndex
  | some b => withCall (writeOrAbort b afterHeaderWrite) s

/-- `TX_FILL_UPD`: `CrcUpdate(FILLER)` (40_checksum_sequencer.md R92). -/
def rowTxFillUpd (s : State) : Answer :=
  withCall (fun t => .next (goto .txFillWr (crcUpdate t.cfg.filler t))) s

/-- After a filler was written: the next one, or the checksum. -/
def afterFillerWrite (s : State) : Answer :=
  if s.idx.toNat + 1 < s.txfill.toNat then .next (goto .txFillUpd (setIdx (s.idx + 1#8) s))
  else if s.idx.toNat + 1 = s.txfill.toNat then .next (goto .txCrcRes (setIdx (s.idx + 1#8) s))
  else .fault .fillerCount

/-- `TX_FILL_WR`: `BusWrite(FILLER)`. -/
def rowTxFillWr (s : State) : Answer :=
  withCall (fun t => writeOrAbort t.cfg.filler afterFillerWrite t) s

/-- `PKT.CHECKSUM <- c` (40_checksum_sequencer.md R94). -/
def setPktChecksum (c : Word) (s : State) : State :=
  { s with pktChecksum := c, written := { s.written with pktChecksum := true } }

/-- `TX_CRCRES`: `PKT.CHECKSUM <- CrcResult()` (40_checksum_sequencer.md R94). -/
def rowTxCrcRes (s : State) : Answer :=
  withCall (fun t => .next (goto .txCkLo (setPktChecksum (crcValue t) (crcResult t)))) s

/-- `TX_CK_LO`: `BusWrite(PKT.CHECKSUM[7:0])`. -/
def rowTxCkLo (s : State) : Answer :=
  withCall (fun t => writeOrAbort (loByte t.pktChecksum) (fun u => .next (goto .txCkHi u)) t) s

/-- `TX_CK_HI`: `BusWrite(PKT.CHECKSUM[15:8])`. -/
def rowTxCkHi (s : State) : Answer :=
  withCall (fun t => writeOrAbort (hiByte t.pktChecksum) (fun u => .next (goto .txStop u)) t) s

/-- `TX_STOP`: `BusStop()`. -/
def rowTxStop (s : State) : Answer :=
  withCall (fun t => .next (goto .wait (busStop t))) s

/-- `TX_ABORT`: the BusError abort, then `INITMAP` for INIT and `DONE` for every other operation
(42_frame_transmitter.md R111, 60_exceptions.md R155). -/
def rowTxAbort (after : Phase) (s : State) : Answer :=
  withCall (fun t => .next (goto after (raiseBusError t))) s

end Sys2Proof.Machine
end

