-- ==== Sys2Proof/Machine/Sequencer.lean ====
section
/-! DEFINITION. The phase table (10_state.md R32): the one step an operation makes in each phase. -/

namespace Sys2Proof.Machine

/-- One step of the operation whose command word is `word`, with its own BUILD, settle time, classifier, and phase after
`CLASSIFY` or `TX_ABORT` (`INITMAP` for INIT, `DONE` for the others). In `IDLE` the word is what the host has just
issued; in every other phase the operation is running. One row, so at most one event, per step (10_state.md R32, D2; log
entry 1). -/
def operationStep (word : Word) (build : State → State) (settle : Nat) (classify : State → State) (after : Phase)
    (s : State) : Answer :=
  match s.phase with
  | .idle => .next (issue word s)
  | .build => .next (goto .txCrcInit (build s))
  | .txCrcInit => rowTxCrcInit s
  | .txStart => rowTxStart s
  | .txAddr => rowTxAddr s
  | .txExec => rowTxExec s
  | .txHdrUpd => rowTxHdrUpd s
  | .txHdrWr => rowTxHdrWr s
  | .txFillUpd => rowTxFillUpd s
  | .txFillWr => rowTxFillWr s
  | .txCrcRes => rowTxCrcRes s
  | .txCkLo => rowTxCkLo s
  | .txCkHi => rowTxCkHi s
  | .txStop => rowTxStop s
  | .txAbort => rowTxAbort after s
  | .wait => rowWait settle s
  | .rxCrcInit => rowRxCrcInit s
  | .rxStart => rowRxStart s
  | .rxAddr => rowRxAddr s
  | .rxLenRd => rowRxLenRd s
  | .rxLenUpd => rowRxLenUpd s
  | .rxPayRd => rowRxPayRd s
  | .rxPayUpd => rowRxPayUpd s
  | .rxCkLo => rowRxCkLo s
  | .rxCkHi => rowRxCkHi s
  | .rxStop => rowRxStop s
  | .rxCrcRes => rowRxCrcRes s
  | .classify => .next (goto after (classify s))
  | .initmap => .next (goto .done (initMap s))
  | .done => .next (complete s)

end Sys2Proof.Machine
end

