-- ==== Sys2Proof/Machine/Info.lean ====
section
/-! DEFINITION. `INFO` (44_operations.md R134). -/

namespace Sys2Proof.Machine

/-- BUILD for `INFO` (41_command_builder.md R102). -/
def buildInfo (s : State) : State :=
  buildPacket s.cfg.opInfo s.cfg.p1Info s.cfg.p2Info 0#8 s

/-- INFO's success arm: the four payload bytes into the Device Info registers (44_operations.md R134). -/
def deliverInfo (s : State) : State :=
  { s with
    infoRfu := readByte .rxbuf 0 s
    infoDevid := readByte .rxbuf 1 s
    infoSilid := readByte .rxbuf 2 s
    infoRev := readByte .rxbuf 3 s
    written := { s.written with info := true } }

/-- CLASSIFY for `INFO`: `EXP` = `FRAME_INFO` (30_encoding.md R70). -/
def classifyInfo (s : State) : State := classifyFrame (some s.cfg.frameInfo) deliverInfo s

/-- `INFO`: one step of the operation (44_operations.md R134). -/
def execInfo (s : State) : Answer :=
  operationStep (encode .info) buildInfo s.cfg.tInfo classifyInfo .done s

end Sys2Proof.Machine
end

