-- ==== Sys2Proof/Machine/SelfTest.lean ====
section
/-! DEFINITION. `SELFTEST v` (44_operations.md R133). The variant selects `param1` only (41_command_builder.md R101, D5). -/

namespace Sys2Proof.Machine

/-- BUILD for a self-test with the variant's `param1` (41_command_builder.md R101). -/
def buildSelftest (param1 : Byte) (s : State) : State :=
  buildPacket s.cfg.opSelftest param1 s.cfg.p2Selftest 0#8 s

/-- BUILD for `SELFTEST DRBG`. -/
def buildSelftestDrbg (s : State) : State := buildSelftest s.cfg.p1SelftestDrbg s

/-- BUILD for `SELFTEST SHA`. -/
def buildSelftestSha (s : State) : State := buildSelftest s.cfg.p1SelftestSha s

/-- BUILD for `SELFTEST DRBG_SHA`. -/
def buildSelftestDrbgSha (s : State) : State := buildSelftest s.cfg.p1SelftestDrbgSha s

/-- CLASSIFY for SELFTEST: arms 1 and 3 only, since it has no expected data length (44_operations.md R133, D17). -/
def classifySelftest (s : State) : State := classifyFrame none id s

/-- `SELFTEST DRBG`: one step of the operation (44_operations.md R133). -/
def execSelftestDrbg (s : State) : Answer :=
  operationStep (encode .selftestDrbg) buildSelftestDrbg s.cfg.tSelftest classifySelftest .done s

/-- `SELFTEST SHA`: one step of the operation (44_operations.md R133). -/
def execSelftestSha (s : State) : Answer :=
  operationStep (encode .selftestSha) buildSelftestSha s.cfg.tSelftest classifySelftest .done s

/-- `SELFTEST DRBG_SHA`: one step of the operation (44_operations.md R133). -/
def execSelftestDrbgSha (s : State) : Answer :=
  operationStep (encode .selftestDrbgSha) buildSelftestDrbgSha s.cfg.tSelftest classifySelftest .done s

end Sys2Proof.Machine
end

