-- ==== Sys2Proof/Machine/Init.lean ====
section
/-! DEFINITION. `INIT` (44_operations.md R137): on the wire `SELFTEST DRBG`, its outcome mapped by `INITMAP`. -/

namespace Sys2Proof.Machine

/-- BUILD for `INIT`: as `SELFTEST DRBG` (41_command_builder.md R105). -/
def buildInit (s : State) : State := buildSelftestDrbg s

/-- CLASSIFY for `INIT`: the inner self-test's (44_operations.md R137). -/
def classifyInit (s : State) : State := classifySelftest s

/-- `INIT`: one step of the operation; `INITMAP` follows `CLASSIFY` and `TX_ABORT` (44_operations.md R137). -/
def execInit (s : State) : Answer :=
  operationStep (encode .init) buildInit s.cfg.tSelftest classifyInit .initmap s

end Sys2Proof.Machine
end

