-- ==== Sys2Proof/Machine/Random.lean ====
section
/-! DEFINITION. `RANDOM n` (44_operations.md R135). -/

namespace Sys2Proof.Machine

/-- BUILD for `RANDOM n`: the filler count goes to `TXFILL`, the fillers themselves are stored nowhere
(41_command_builder.md R103). -/
def buildRandom (n : Byte) (s : State) : State :=
  buildPacket s.cfg.opRandom s.cfg.p1Random s.cfg.p2Random n s

/-- RANDOM's success arm: `RANDOM_LEN` payload bytes into `RND` (44_operations.md R135). -/
def deliverRandom (s : State) : State := copyPayload .rnd s.cfg.randomLen s

/-- CLASSIFY for `RANDOM`: `EXP` = `FRAME_RANDOM` (30_encoding.md R70). -/
def classifyRandom (s : State) : State := classifyFrame (some s.cfg.frameRandom) deliverRandom s

/-- `RANDOM n`: one step of the operation (44_operations.md R135). -/
def execRandom (n : Byte) (s : State) : Answer :=
  operationStep (encode (.random n)) (buildRandom n) s.cfg.tRandom classifyRandom .done s

end Sys2Proof.Machine
end

