-- ==== Sys2Proof/Machine/Serial.lean ====
section
/-! DEFINITION. `SERIAL` (44_operations.md R136). -/

namespace Sys2Proof.Machine

/-- BUILD for `SERIAL` (41_command_builder.md R104). -/
def buildSerial (s : State) : State :=
  buildPacket s.cfg.opSerial s.cfg.p1Serial s.cfg.p2Serial 0#8 s

/-- SERIAL's success arm: all 16 payload bytes into `SER` (44_operations.md R136, D16). -/
def deliverSerial (s : State) : State := copyPayload .ser serialLen s

/-- CLASSIFY for `SERIAL`: `EXP` = `FRAME_SERIAL` (30_encoding.md R70). -/
def classifySerial (s : State) : State := classifyFrame (some s.cfg.frameSerial) deliverSerial s

/-- `SERIAL`: one step of the operation (44_operations.md R136). -/
def execSerial (s : State) : Answer :=
  operationStep (encode .serial) buildSerial s.cfg.tSerial classifySerial .done s

end Sys2Proof.Machine
end

