-- ==== Sys2Proof/Machine/Dispatch.lean ====
section
/-! DEFINITION. One arm per operation. -/

namespace Sys2Proof.Machine

/-- One step of the operation `i`, the row of 10_state.md R32 that the phase selects. -/
def exec (i : Instr) (s : State) : Host.Outcome State Fault Refusal :=
  match i with
  | .init => Sys2Proof.Machine.execInit s
  | .selftestDrbg => Sys2Proof.Machine.execSelftestDrbg s
  | .selftestSha => Sys2Proof.Machine.execSelftestSha s
  | .selftestDrbgSha => Sys2Proof.Machine.execSelftestDrbgSha s
  | .info => Sys2Proof.Machine.execInfo s
  | .random n => Sys2Proof.Machine.execRandom n s
  | .serial => Sys2Proof.Machine.execSerial s

end Sys2Proof.Machine
end

