-- ==== Sys2Proof/Machine/Fetch.lean ====
section
/-! DEFINITION. Which operation a step belongs to. The framer fetches no instructions (20_memory.md R55): in `IDLE` the
operation is named by the word the host issues, in every other phase by `CMD` (10_state.md R11). -/

namespace Sys2Proof.Machine

/-- Whether the framer takes a command word: `PHASE = IDLE` and `BUSY = 0` (44_operations.md R138). -/
def ready (s : State) : Bool := decide (s.phase = .idle) && !s.busy

/-- The command word that this step is about: in `IDLE` the next word of the host's program, if `BUSY = 0` and the host
has one (44_operations.md R138, 93 U8); in every other phase `CMD`. -/
def commandWord (s : State) : Option Word :=
  match s.phase with
  | .idle => if s.busy then none else s.program.head?
  | _ => some s.cmd

/-- The host's program becomes `ws`. -/
def setProgram (ws : List Word) (s : State) : State := { s with program := ws }

/-- The state once the host has issued its next word: the word is gone from the host's program. In a busy phase nothing
is issued. -/
def takeWord (s : State) : State :=
  if ready s then setProgram s.program.tail s else s

/-- A step whose word names no operation: a rejection in `IDLE` (60_exceptions.md R160); in a busy phase no operation is
running, which no run reaches. -/
def undecodable (s : State) : Answer :=
  match s.phase with
  | .idle => .next (reject s)
  | _ => .fault .noOperation

/-- The state in which the very next step runs the word `w`: idle, not busy, `w` the next word the host issues (log entry
7). -/
def withCommand (w : Word) (s : State) : State :=
  { s with phase := .idle, busy := false, program := w :: s.program }

end Sys2Proof.Machine
end

