-- ==== Sys2Proof/Machine/Step.lean ====
section
/-! DEFINITION. One step of the framer: one row of the phase table (10_state.md R32). -/

namespace Sys2Proof.Machine

/-- One step. With nothing to do, in `IDLE` with no word issued, the framer waits (10_state.md R21). Otherwise the step
is that of the operation its command word names. -/
def step (s : State) : Host.Outcome State Fault Refusal :=
  match commandWord s with
  | none => .next s
  | some w =>
    match decode w with
    | .ok i => exec i (takeWord s)
    | .error _ => undecodable (takeWord s)

/-- The state whose next step runs the instruction of an opcode table row. -/
def State.withFetchWord (s : State) (nbits w : Nat) : State := withCommand (tableWord nbits w) s

end Sys2Proof.Machine
end

