-- ==== Sys2Proof/Machine/HostPort.lean ====
section
/-! DEFINITION. The host's read access to the registers (10_state.md R24, 20_memory.md R40, R41): no step reads through
it, and a read has no side effect (R24, R51). How register numbers map to bus addresses is not defined (`HOST_BASE`
open). -/

namespace Sys2Proof.Machine

/-- What a register number of 10_state.md R24 names; a register file takes an index. -/
inductive HostReg where
  | cmd
  | busy
  | pktCount
  | pktOpcode
  | pktParam1
  | pktParam2
  | pktChecksum
  | txfill
  | frmLength
  | frmValid
  | frmChecksum
  | calcReg
  | rxbuf (i : Nat)
  | resKind
  | resCode
  | infoRfu
  | infoDevid
  | infoSilid
  | infoRev
  | rnd (i : Nat)
  | ser (i : Nat)
  | phase
  | idx
  deriving DecidableEq, Repr

/-- The register of a number, with an index for the register files (10_state.md R24). -/
def hostRegOf (number index : Nat) : Option HostReg :=
  match number with
  | 0 => some .cmd
  | 1 => some .busy
  | 2 => some .pktCount
  | 3 => some .pktOpcode
  | 4 => some .pktParam1
  | 5 => some .pktParam2
  | 6 => some .pktChecksum
  | 7 => some .txfill
  | 8 => some .frmLength
  | 9 => some .frmValid
  | 10 => some .frmChecksum
  | 11 => some .calcReg
  | 12 => some (.rxbuf index)
  | 13 => some .resKind
  | 14 => some .resCode
  | 15 => some .infoRfu
  | 16 => some .infoDevid
  | 17 => some .infoSilid
  | 18 => some .infoRev
  | 19 => some (.rnd index)
  | 20 => some (.ser index)
  | 21 => some .phase
  | 22 => some .idx
  | _ => none

/-- The width of a register in bits (10_state.md R24, 20_memory.md R41): the register's own, or one byte of a register
file. `PHASE` has none: it is an enumeration whose binary code 10_state.md R21 does not fix, and the model fixes no code and
no width for it either (DESIGN CHOICE, log entry 29). -/
def hostRegWidth (r : HostReg) : Option Nat :=
  match r with
  | .cmd => some 16
  | .busy => some 1
  | .pktCount => some 8
  | .pktOpcode => some 8
  | .pktParam1 => some 8
  | .pktParam2 => some 16
  | .pktChecksum => some 16
  | .txfill => some 8
  | .frmLength => some 8
  | .frmValid => some 1
  | .frmChecksum => some 16
  | .calcReg => some 16
  | .rxbuf _ => some 8
  | .resKind => some 3
  | .resCode => some 8
  | .infoRfu => some 8
  | .infoDevid => some 8
  | .infoSilid => some 8
  | .infoRev => some 8
  | .rnd _ => some 8
  | .ser _ => some 8
  | .phase => none
  | .idx => some 8

/-- What the host reads from the scalar register of a number: its value once it holds a specified one, a free value of its
width before (10_state.md R31, R24; for `RES.CODE` 30_encoding.md R72). The spec asks a model to refuse such a read (93 U12,
U13); this one lets it complete and fixes no value (DESIGN CHOICE, log entry 31). Zero-extended (DESIGN CHOICE, log entry
30). -/
def registerValue {n : Nat} (number : Nat) (specified : Bool) (v : BitVec n) (s : State) : Word :=
  (if specified then v else (Config.unspecified number s.draws s.trace.length).setWidth n).setWidth 16

/-- A byte of a register file, as a step reads it, a free value where no step has written it (10_state.md R31; log entries
11 and 31), zero-extended (DESIGN CHOICE, log entry 30). An index outside the file does not exist (20_memory.md R42). -/
def readBuffer (sp : Space) (i : Nat) (s : State) : Except Refusal Word :=
  if i < spaceSize s.cfg sp then .ok ((readByte sp i s).setWidth 16) else .error .noSuchRegister

/-- A host read while `BUSY = 0` (10_state.md R24). The spec gives the width of an access, the register's own or one byte of
a register file (R24, 20_memory.md R41), and not how a narrower value is delivered: that it is zero-extended to 16 bits is
the model's DESIGN CHOICE (log entry 30). -/
def readIdle (r : HostReg) (s : State) : Except Refusal Word :=
  match r with
  | .cmd => .ok s.cmd
  | .busy => .ok ((BitVec.ofBool s.busy).setWidth 16)
  | .pktCount => .ok (registerValue 2 s.written.packet s.pktCount s)
  | .pktOpcode => .ok (registerValue 3 s.written.packet s.pktOpcode s)
  | .pktParam1 => .ok (registerValue 4 s.written.packet s.pktParam1 s)
  | .pktParam2 => .ok (registerValue 5 s.written.packet s.pktParam2 s)
  | .pktChecksum => .ok (registerValue 6 s.written.pktChecksum s.pktChecksum s)
  | .txfill => .ok (registerValue 7 s.written.packet s.txfill s)
  | .frmLength => .ok (registerValue 8 s.written.frmLength s.frmLength s)
  | .frmValid => .ok ((BitVec.ofBool s.frmValid).setWidth 16)
  | .frmChecksum => .ok (registerValue 10 s.written.frmChecksum s.frmChecksum s)
  | .calcReg => .ok (registerValue 11 s.written.calcReg s.calcReg s)
  | .rxbuf i => readBuffer .rxbuf i s
  | .resKind => .ok ((resKindCode s.resKind).setWidth 16)
  | .resCode => .ok (registerValue 14 (resCodeSpecified s.resKind) s.resCode s)
  | .infoRfu => .ok (registerValue 15 s.written.info s.infoRfu s)
  | .infoDevid => .ok (registerValue 16 s.written.info s.infoDevid s)
  | .infoSilid => .ok (registerValue 17 s.written.info s.infoSilid s)
  | .infoRev => .ok (registerValue 18 s.written.info s.infoRev s)
  | .rnd i => readBuffer .rnd i s
  | .ser i => readBuffer .ser i s
  | .phase => .error .notHostReadable
  | .idx => .error .notHostReadable

/-- A host read (10_state.md R24): `BUSY` at any time, every other readable register only while `BUSY = 0`
(70_reset_and_hazards.md R179, D27), `BUSY` zero-extended as the others are (DESIGN CHOICE, log entry 30). -/
def hostRead (r : HostReg) (s : State) : Except Refusal Word :=
  if r = .busy then .ok ((BitVec.ofBool s.busy).setWidth 16)
  else if s.busy then .error .readWhileBusy
  else readIdle r s

/-- A host read by register number and index (10_state.md R24). -/
def hostReadNumber (number index : Nat) (s : State) : Except Refusal Word :=
  match hostRegOf number index with
  | some r => hostRead r s
  | none => .error .noSuchRegister

end Sys2Proof.Machine
end

