-- ==== Sys2Proof/Safety.lean ====
section
/-! DEFINITION. The terms claims use: the table of operations (30_encoding.md R67), the event lists of a TRANSMIT and a
RECEIVE, the projections of a trace (20_memory.md R50), the engine property of 40_checksum_sequencer.md R97, and the
invariants that hold of every state a run from reset reaches. -/

namespace Sys2Proof.Machine

/-! ### The table of operations (30_encoding.md R67) -/

/-- The `opcode` byte of an operation's command frame. -/
def opcodeOf (c : Params) (i : Instr) : Byte :=
  match i with
  | .init => c.opSelftest
  | .selftestDrbg => c.opSelftest
  | .selftestSha => c.opSelftest
  | .selftestDrbgSha => c.opSelftest
  | .info => c.opInfo
  | .random _ => c.opRandom
  | .serial => c.opSerial

/-- The `param1` byte of an operation's command frame. -/
def param1Of (c : Params) (i : Instr) : Byte :=
  match i with
  | .init => c.p1SelftestDrbg
  | .selftestDrbg => c.p1SelftestDrbg
  | .selftestSha => c.p1SelftestSha
  | .selftestDrbgSha => c.p1SelftestDrbgSha
  | .info => c.p1Info
  | .random _ => c.p1Random
  | .serial => c.p1Serial

/-- The `param2` field of an operation's command frame. -/
def param2Of (c : Params) (i : Instr) : Word :=
  match i with
  | .init => c.p2Selftest
  | .selftestDrbg => c.p2Selftest
  | .selftestSha => c.p2Selftest
  | .selftestDrbgSha => c.p2Selftest
  | .info => c.p2Info
  | .random _ => c.p2Random
  | .serial => c.p2Serial

/-- The number of extra payload bytes of an operation's command frame. -/
def fillerOf (i : Instr) : Byte :=
  match i with
  | .init => 0#8
  | .selftestDrbg => 0#8
  | .selftestSha => 0#8
  | .selftestDrbgSha => 0#8
  | .info => 0#8
  | .random n => n
  | .serial => 0#8

/-- The settle time in milliseconds (44_operations.md R131). -/
def settleOf (c : Params) (i : Instr) : Nat :=
  match i with
  | .init => c.tSelftest
  | .selftestDrbg => c.tSelftest
  | .selftestSha => c.tSelftest
  | .selftestDrbgSha => c.tSelftest
  | .info => c.tInfo
  | .random _ => c.tRandom
  | .serial => c.tSerial

/-- `EXP(op)`, the expected success length, which SELFTEST and INIT do not have (30_encoding.md R70). -/
def expectedOf (c : Params) (i : Instr) : Option Byte :=
  match i with
  | .init => none
  | .selftestDrbg => none
  | .selftestSha => none
  | .selftestDrbgSha => none
  | .info => some c.frameInfo
  | .random _ => some c.frameRandom
  | .serial => some c.frameSerial

/-- The frame lengths of a configuration leave room for what CLASSIFY reads of each frame: the status byte, the four Device
Info bytes, the 16 serial bytes, the random bytes (30_encoding.md R71). The document's literals do. -/
def FramesFit (c : Params) : Prop :=
  4 ≤ c.frameStd.toNat ∧ 7 ≤ c.frameInfo.toNat ∧ 19 ≤ c.frameSerial.toNat ∧ c.randomLen + 3 ≤ c.frameRandom.toNat

/-- The phase after `CLASSIFY` and after `TX_ABORT` (10_state.md R32). -/
def afterOf (i : Instr) : Phase :=
  match i with
  | .init => .initmap
  | .selftestDrbg => .done
  | .selftestSha => .done
  | .selftestDrbgSha => .done
  | .info => .done
  | .random _ => .done
  | .serial => .done

/-- An operation's command frame before its checksum: count, opcode, param1, param2 low byte first, the fillers
(30_encoding.md R64, R67). -/
def commandBody (c : Params) (i : Instr) : List Byte :=
  [c.overhead + fillerOf i, opcodeOf c i, param1Of c i, loByte (param2Of c i), hiByte (param2Of c i)]
    ++ List.replicate (fillerOf i).toNat c.filler

/-! ### Phases -/

/-- The phases whose row calls an external primitive (10_state.md R32, column "event"). -/
def callsPrimitive (p : Phase) : Bool :=
  match p with
  | .idle => false
  | .build => false
  | .classify => false
  | .initmap => false
  | .done => false
  | _ => true

/-- The phases that make a `BusWrite`, the only ones in which BusError is raised (60_exceptions.md R152). -/
def writesBus (p : Phase) : Bool :=
  match p with
  | .txExec => true
  | .txHdrWr => true
  | .txFillWr => true
  | .txCkLo => true
  | .txCkHi => true
  | _ => false

/-- TRANSMIT without its abort: `TX_CRCINIT` to `TX_STOP`. -/
def inTransmit (p : Phase) : Bool :=
  match p with
  | .txCrcInit => true
  | .txStart => true
  | .txAddr => true
  | .txExec => true
  | .txHdrUpd => true
  | .txHdrWr => true
  | .txFillUpd => true
  | .txFillWr => true
  | .txCrcRes => true
  | .txCkLo => true
  | .txCkHi => true
  | .txStop => true
  | _ => false

/-- RECEIVE: `RX_CRCINIT` to `RX_CRCRES`. -/
def inReceive (p : Phase) : Bool :=
  match p with
  | .rxCrcInit => true
  | .rxStart => true
  | .rxAddr => true
  | .rxLenRd => true
  | .rxLenUpd => true
  | .rxPayRd => true
  | .rxPayUpd => true
  | .rxCkLo => true
  | .rxCkHi => true
  | .rxStop => true
  | .rxCrcRes => true
  | _ => false

/-! ### Events -/

/-- The one external event of the row of the phase table that operation `i` runs in the state's phase, with the result that
the primitive returns (10_state.md R32, column "event"); none in `IDLE` and the internal phases. -/
def eventOf (i : Instr) (s : State) : Option Event :=
  match s.phase with
  | .idle => none
  | .build => none
  | .txCrcInit => some (.crcInit s.cfg.crcSeed)
  | .txStart => some .busStart
  | .txAddr => some (.busAddress s.cfg.devAddr .write)
  | .txExec => some (.busWrite s.cfg.waExecute (nextAck s))
  | .txHdrUpd => (headerByte s).map (fun b => .crcUpdate b)
  | .txHdrWr => (headerByte s).map (fun b => .busWrite b (nextAck s))
  | .txFillUpd => some (.crcUpdate s.cfg.filler)
  | .txFillWr => some (.busWrite s.cfg.filler (nextAck s))
  | .txCrcRes => some (.crcResult (crcValue s))
  | .txCkLo => some (.busWrite (loByte s.pktChecksum) (nextAck s))
  | .txCkHi => some (.busWrite (hiByte s.pktChecksum) (nextAck s))
  | .txStop => some .busStop
  | .txAbort => some .busStop
  | .wait => some (.delayMs (settleOf s.cfg i))
  | .rxCrcInit => some (.crcInit s.cfg.crcSeed)
  | .rxStart => some .busStart
  | .rxAddr => some (.busAddress s.cfg.devAddr .read)
  | .rxLenRd => some (.busRead .ack (nextByte s))
  | .rxLenUpd => some (.crcUpdate s.frmLength)
  | .rxPayRd => some (.busRead .ack (nextByte s))
  | .rxPayUpd => some (.crcUpdate (readByte .rxbuf s.idx.toNat s))
  | .rxCkLo => some (.busRead .ack (nextByte s))
  | .rxCkHi => some (.busRead .nack (nextByte s))
  | .rxStop => some .busStop
  | .rxCrcRes => some (.crcResult (crcValue s))
  | .classify => none
  | .initmap => none
  | .done => none

/-- The projection of a trace onto the transport (20_memory.md R50). -/
def onTransport (e : Event) : Bool :=
  match e with
  | .busStart => true
  | .busStop => true
  | .busAddress _ _ => true
  | .busWrite _ _ => true
  | .busRead _ _ => true
  | _ => false

/-- The projection of a trace onto the engine (20_memory.md R50). -/
def onEngine (e : Event) : Bool :=
  match e with
  | .crcInit _ => true
  | .crcUpdate _ => true
  | .crcResult _ => true
  | _ => false

/-- Bytes fed to the engine and written to the bus, each fed before it is written (40_checksum_sequencer.md R92). -/
def feedAndWrite (bs : List Byte) : List Event :=
  bs.flatMap (fun b => [.crcUpdate b, .busWrite b .ok])

/-- Bytes read from the bus and fed to the engine (40_checksum_sequencer.md R93). -/
def readAndFeed (bs : List Byte) : List Event :=
  bs.flatMap (fun b => [.busRead .ack b, .crcUpdate b])

/-- The events of a TRANSMIT in which no write fails: the frame bytes before the checksum, and the checksum
(42_frame_transmitter.md R110, R112). -/
def transmitEvents (c : Params) (body : List Byte) (ck : Word) : List Event :=
  [.crcInit c.crcSeed, .busStart, .busAddress c.devAddr .write, .busWrite c.waExecute .ok]
    ++ feedAndWrite body
    ++ [.crcResult ck, .busWrite (loByte ck) .ok, .busWrite (hiByte ck) .ok, .busStop]

/-- The events of a RECEIVE (43_frame_receiver.md R120): the length byte, the payload, the two checksum bytes as read,
and the computed checksum. -/
def receiveEvents (c : Params) (len : Byte) (payload : List Byte) (lo hi : Byte) (ck : Word) : List Event :=
  [.crcInit c.crcSeed, .busStart, .busAddress c.devAddr .read, .busRead .ack len, .crcUpdate len]
    ++ readAndFeed payload
    ++ [.busRead .ack lo, .busRead .nack hi, .busStop, .crcResult ck]

/-- The bytes a TRANSMIT writes after the address, in order, from the frame bytes before the checksum
(42_frame_transmitter.md R112). -/
def wireBytes (c : Params) (body : List Byte) : List Byte :=
  c.waExecute :: (body ++ [loByte (crcOf c body), hiByte (crcOf c body)])

/-- The transport's events of a TRANSMIT whose write number `k` (from 0) fails: `k` good writes, the failed one, and one
`BusStop` (42_frame_transmitter.md R111). -/
def abortedTransport (c : Params) (wire : List Byte) (k : Nat) : List Event :=
  [.busStart, .busAddress c.devAddr .write]
    ++ (wire.take k).map (fun b => .busWrite b .ok)
    ++ (wire[k]?.toList.map (fun b => .busWrite b .busError))
    ++ [.busStop]

/-- The engine's events of a TRANSMIT whose write number `k` (from 0) fails: one `CrcInit`, an update for each frame byte
whose write was attempted, and a `CrcResult` only if a checksum byte was reached (42_frame_transmitter.md R113,
40_checksum_sequencer.md R98). -/
def abortedEngine (c : Params) (body : List Byte) (k : Nat) : List Event :=
  [.crcInit c.crcSeed]
    ++ (body.take k).map (fun b => .crcUpdate b)
    ++ (if body.length < k then [.crcResult (crcOf c body)] else [])

/-- How each read of a list of events was acknowledged (43_frame_receiver.md R122). -/
def readKinds (t : List Event) : List AckKind :=
  t.filterMap (fun e => match e with
    | .busRead k _ => some k
    | _ => none)

/-- The bytes a list of events reads from the bus, in order (20_memory.md R46). -/
def readBytes (t : List Event) : List Byte :=
  t.filterMap (fun e => match e with
    | .busRead _ b => some b
    | _ => none)

/-- A `BusWrite`, whatever its result (20_memory.md R46). -/
def writesByte (e : Event) : Bool :=
  match e with
  | .busWrite _ _ => true
  | _ => false

/-- Where the transport stands after a list of events (20_memory.md R56): no transaction, started, addressed, or at least
one byte moved. -/
inductive BusPoint where
  | closed
  | started
  | addressed (d : Dir)
  | moving (d : Dir)
  deriving DecidableEq, Repr

/-- One event of a well-formed sequence of transactions (20_memory.md R56); nothing where the event is out of place. The
engine's and the delay's events do not concern the transport. -/
def busPointStep (p : BusPoint) (e : Event) : Option BusPoint :=
  match e with
  | .busStart => if p = .closed then some .started else none
  | .busAddress _ d => if p = .started then some (.addressed d) else none
  | .busWrite _ _ => if p = .addressed .write ∨ p = .moving .write then some (.moving .write) else none
  | .busRead _ _ => if p = .addressed .read ∨ p = .moving .read then some (.moving .read) else none
  | .busStop =>
    match p with
    | .moving _ => some .closed
    | _ => none
  | .crcInit _ => some p
  | .crcUpdate _ => some p
  | .crcResult _ => some p
  | .delayMs _ => some p

/-- Where the transport stands after a trace, or nothing if the trace is no sequence of transactions (20_memory.md R56). -/
def busPoint (t : List Event) : Option BusPoint :=
  t.foldl (fun p e => p.bind (fun q => busPointStep q e)) (some .closed)

/-- Where the transport stands when a phase begins (10_state.md R32). -/
def busPointOf (p : Phase) : BusPoint :=
  match p with
  | .txAddr => .started
  | .txExec => .addressed .write
  | .txHdrUpd => .moving .write
  | .txHdrWr => .moving .write
  | .txFillUpd => .moving .write
  | .txFillWr => .moving .write
  | .txCrcRes => .moving .write
  | .txCkLo => .moving .write
  | .txCkHi => .moving .write
  | .txStop => .moving .write
  | .txAbort => .moving .write
  | .rxAddr => .started
  | .rxLenRd => .addressed .read
  | .rxLenUpd => .moving .read
  | .rxPayRd => .moving .read
  | .rxPayUpd => .moving .read
  | .rxCkLo => .moving .read
  | .rxCkHi => .moving .read
  | .rxStop => .moving .read
  | _ => .closed

/-- The trace is a well-formed sequence of transactions that stands where the phase says (20_memory.md R56). -/
def BusDiscipline (s : State) : Prop := busPoint s.trace = some (busPointOf s.phase)

/-! ### The engine property of 40_checksum_sequencer.md R97 -/

/-- A byte sequence with bit `k` of byte `j` flipped. -/
def flipBit (bs : List Byte) (j k : Nat) : List Byte :=
  bs.modify j (fun b => b ^^^ (1#8 <<< k))

/-- `SINGLE_BIT_DETECT` (40_checksum_sequencer.md R97): two sequences that differ in exactly one bit after the first byte
have different checksums. A hypothesis on a configuration, never a fact about the external engine. -/
def SingleBitDetect (c : Params) : Prop :=
  ∀ (bs : List Byte) (j k : Nat), 0 < j → j < bs.length → k < 8 → crcOf c (flipBit bs j k) ≠ crcOf c bs

/-! ### Outcomes (60_exceptions.md R150) -/

/-- `RES.CODE` is the code of `RES.KIND` (30_encoding.md R72): a status byte may be anything, and after a rejection or
before any operation the code is unspecified. -/
def codeOfKind (c : Params) (k : ResKind) (code : Byte) : Prop :=
  match k with
  | .none => True
  | .success => code = c.stSuccess
  | .status => True
  | .busError => code = c.stBusError
  | .otherError => code = c.stOtherError
  | .initFail => code = c.stInitFail
  | .rejected => True

/-- The outcomes an operation can end in (60_exceptions.md R150, column "which operations"; 44_operations.md R133:
SUCCESS never occurs for SELFTEST). -/
def outcomeAllowed (i : Instr) (k : ResKind) : Prop :=
  match i with
  | .init => k = .success ∨ k = .initFail
  | .selftestDrbg => k = .status ∨ k = .busError ∨ k = .otherError
  | .selftestSha => k = .status ∨ k = .busError ∨ k = .otherError
  | .selftestDrbgSha => k = .status ∨ k = .busError ∨ k = .otherError
  | .info => k = .success ∨ k = .status ∨ k = .busError ∨ k = .otherError
  | .random _ => k = .success ∨ k = .status ∨ k = .busError ∨ k = .otherError
  | .serial => k = .success ∨ k = .status ∨ k = .busError ∨ k = .otherError

/-- The outcome before INITMAP of a frame received as `len`, `payload`, with its validity: kind and code (44_operations.md
R132, 60_exceptions.md R156). -/
def frameOutcome (c : Params) (i : Instr) (valid : Bool) (len : Byte) (payload : List Byte) : ResKind × Byte :=
  if valid = true ∧ len = c.frameStd then (.status, payload.headD 0#8)
  else if valid = true ∧ expectedOf c i = some len then (.success, c.stSuccess)
  else (.otherError, c.stOtherError)

/-- The final outcome from the outcome before INITMAP (44_operations.md R137): only INIT maps it. -/
def finalOutcome (c : Params) (i : Instr) (r : ResKind × Byte) : ResKind × Byte :=
  match i with
  | .init => if r = (.status, c.selftestPass) then (.success, c.stSuccess) else (.initFail, c.stInitFail)
  | .selftestDrbg => r
  | .selftestSha => r
  | .selftestDrbgSha => r
  | .info => r
  | .random _ => r
  | .serial => r

/-! ### Invariants -/

/-- The buffers are in canonical form and list no index outside their size (20_memory.md R40, R42). -/
def BuffersOk (s : State) : Prop :=
  ∀ sp : Space, (buffer sp s).wf ∧ ∀ c ∈ buffer sp s, c.1 < spaceSize s.cfg sp

/-- `CMD` holds a legal word, or 0 before the first acceptance (10_state.md R11). -/
def CommandOk (s : State) : Prop :=
  (∃ i, decode s.cmd = .ok i) ∨ (s.phase = .idle ∧ s.cmd = 0x0000#16)

/-- After BUILD and until the operation ends the packet registers hold the operation's constants and `PKT.COUNT =
OVERHEAD + TXFILL`, with at most 248 fillers, so that with the document's OVERHEAD it does not wrap
(41_command_builder.md R100 to R106). -/
def PacketOk (s : State) : Prop :=
  s.phase = .idle ∨ s.phase = .build ∨ ∀ i, decode s.cmd = .ok i →
    s.pktOpcode = opcodeOf s.cfg i ∧ s.pktParam1 = param1Of s.cfg i ∧ s.pktParam2 = param2Of s.cfg i ∧
      s.txfill = fillerOf i ∧ s.pktCount = s.cfg.overhead + s.txfill ∧ s.txfill.toNat ≤ 248

/-- The range of `IDX` (10_state.md R22, 90 C10): an index inside the loops, in `RX_PAY_UPD` of a byte that
`RXBUF` has, a byte count of at most 252 otherwise. -/
def IndexOk (s : State) : Prop :=
  match s.phase with
  | .txHdrUpd => s.idx.toNat ≤ 4
  | .txHdrWr => s.idx.toNat ≤ 4
  | .txFillUpd => s.idx.toNat < s.txfill.toNat
  | .txFillWr => s.idx.toNat < s.txfill.toNat
  | .rxPayRd => s.idx.toNat < payloadLen s
  | .rxPayUpd => s.idx.toNat < payloadLen s ∧ s.idx.toNat < s.cfg.rxbufSize
  | _ => s.idx.toNat ≤ 252

/-- `TXN` by phase (10_state.md R27): CLOSED outside the transactions, open in the transaction's direction inside. Between
`BusStart` and `BusAddress` its value is free. -/
def TxnOk (s : State) : Prop :=
  match busPointOf s.phase with
  | .closed => s.txn = .closed
  | .started => True
  | .addressed d => s.txn = openedBy d
  | .moving d => s.txn = openedBy d

/-- The outcome registers (30_encoding.md R72, 60_exceptions.md R150): the code is the kind's, `INITMAP` runs for INIT
only and on an outcome of the self-test, and `DONE` is reached with an outcome the operation can have. -/
def OutcomeOk (s : State) : Prop :=
  codeOfKind s.cfg s.resKind s.resCode ∧
  (s.phase = .initmap → decode s.cmd = .ok .init ∧
    (s.resKind = .status ∨ s.resKind = .busError ∨ s.resKind = .otherError)) ∧
  (s.phase = .done → ∀ i, decode s.cmd = .ok i → outcomeAllowed i s.resKind)

/-- The invariant of the machine: it holds at reset and every step keeps it. -/
structure Inv (s : State) : Prop where
  buffers : BuffersOk s
  /-- `BUSY = 1` exactly when `PHASE` is not `IDLE` (10_state.md R12). -/
  busy : s.busy = true ↔ s.phase ≠ .idle
  command : CommandOk s
  packet : PacketOk s
  index : IndexOk s
  txn : TxnOk s
  outcome : OutcomeOk s

/-- The first `n` payload bytes of `RXBUF` as the steps read them. -/
def payloadBytes (s : State) (n : Nat) : List Byte :=
  (List.range n).map (fun i => readByte .rxbuf i s)

/-- The bytes the engine has been fed since `CrcInit(CRC_SEED)`, by phase (40_checksum_sequencer.md R92, R93); nothing
where the phase does not need them. -/
def fedOf (s : State) : Option (List Byte) :=
  match s.phase with
  | .txStart => some []
  | .txAddr => some []
  | .txExec => some []
  | .txHdrUpd => some ((header s).take s.idx.toNat)
  | .txHdrWr => some ((header s).take (s.idx.toNat + 1))
  | .txFillUpd => some (header s ++ List.replicate s.idx.toNat s.cfg.filler)
  | .txFillWr => some (header s ++ List.replicate (s.idx.toNat + 1) s.cfg.filler)
  | .txCrcRes => some (frameBody s)
  | .rxStart => some []
  | .rxAddr => some []
  | .rxLenRd => some []
  | .rxLenUpd => some []
  | .rxPayRd => some (s.frmLength :: payloadBytes s s.idx.toNat)
  | .rxPayUpd => some (s.frmLength :: payloadBytes s s.idx.toNat)
  | .rxCkLo => some (s.frmLength :: payloadBytes s (payloadLen s))
  | .rxCkHi => some (s.frmLength :: payloadBytes s (payloadLen s))
  | .rxStop => some (s.frmLength :: payloadBytes s (payloadLen s))
  | .rxCrcRes => some (s.frmLength :: payloadBytes s (payloadLen s))
  | _ => none

/-- `PKT.CHECKSUM` is in use or complete: `TX_CK_LO` until `CLASSIFY` begins. -/
def checksumSent (p : Phase) : Bool :=
  match p with
  | .txCkLo => true
  | .txCkHi => true
  | .txStop => true
  | .wait => true
  | .classify => true
  | _ => inReceive p

/-- The checksums: what the engine has been fed, the command checksum over every preceding byte of the frame
(40_checksum_sequencer.md R94), and at `CLASSIFY` the computed checksum and the validity of the received frame
(43_frame_receiver.md R123). -/
structure ChecksumInv (s : State) : Prop where
  engine : ∀ bs, fedOf s = some bs → s.eng = { seed := s.cfg.crcSeed, fed := bs }
  command : checksumSent s.phase = true → s.pktChecksum = crcOf s.cfg (frameBody s)
  frame : s.phase = .classify →
    s.calcReg = crcOf s.cfg (s.frmLength :: payloadBytes s (payloadLen s)) ∧
      s.frmValid = decide (s.calcReg = s.frmChecksum)
  /-- Every payload byte of the frame has been written (43_frame_receiver.md R124). -/
  payload : (s.phase = .rxPayUpd → (memRead s.rxbuf s.idx.toNat).isSome) ∧
    (s.phase = .rxPayRd ∨ s.phase = .rxPayUpd → ∀ i < s.idx.toNat, (memRead s.rxbuf i).isSome) ∧
    ((s.phase = .rxCkLo ∨ s.phase = .rxCkHi ∨ s.phase = .rxStop ∨ s.phase = .rxCrcRes ∨ s.phase = .classify) →
      ∀ i < payloadLen s, (memRead s.rxbuf i).isSome)

end Sys2Proof.Machine
end

