-- ==== Sys2Proof/Certificates/Slice0/Obligations.lean ====
section
/-! DEFINITION. The statements for the provers. `Host.Core.run Sys2Proof.core k s` is `k` steps of the machine. Where a
statement rests on a choice the spec marks as its own ([decision: Dn]) or on a log entry of the model, its docstring says so
and its basis is 'derived'. -/

open Sys2Proof Sys2Proof.Machine

/-! ### Command words -/

/-- The command words of 95_test_vectors.md V19, written out from the field table of 30_encoding.md section 1 (the spec's
own choice, D3): the legal ones decode to their operation, and one word of each illegal kind is rejected. -/
def Obligations.CommandWordsDecodeAsTabled : Prop :=
  decode 0x0001#16 = .ok .init ∧ decode 0x0002#16 = .ok .selftestDrbg ∧ decode 0x000A#16 = .ok .selftestSha ∧
  decode 0x0012#16 = .ok .selftestDrbgSha ∧ decode 0x0003#16 = .ok .info ∧ decode 0x0004#16 = .ok (.random 0#8) ∧
  decode 0x1404#16 = .ok (.random 20#8) ∧ decode 0xF804#16 = .ok (.random 248#8) ∧ decode 0x0005#16 = .ok .serial ∧
  decode 0x0000#16 = .error .reservedOp ∧ decode 0x0006#16 = .error .reservedOp ∧
  decode 0x0007#16 = .error .reservedOp ∧ decode 0x001A#16 = .error .reservedVariant ∧
  decode 0x000B#16 = .error .variantOutsideSelftest ∧ decode 0x0021#16 = .error .reservedBits ∧
  decode 0x0103#16 = .error .fillerOutsideRandom ∧ decode 0x0801#16 = .error .fillerOutsideRandom ∧
  decode 0xF904#16 = .error .fillerTooLong

/-- Decoding the command word of any well-formed operation, every filler count of RANDOM included, gives the operation
back (30_encoding.md section 1; word layout D3). -/
def Obligations.DecodeEncodeAgree : Prop :=
  ∀ i : Instr, i.wf = true → decode (encode i) = .ok i

/-- Every word that decodes is the one command word of a well-formed operation (30_encoding.md section 1; D3, D8). -/
def Obligations.DecodedWordIsItsEncoding : Prop :=
  ∀ (w : Word) (i : Instr), decode w = .ok i → i.wf = true ∧ encode i = w

/-- A word is rejected exactly when one of the clauses of 30_encoding.md section 6 holds of its fields, here computed from
the word as a number: op = w mod 8, variant = bits 4:3, reserved = bits 7:5, filln = bits 15:8 (D3, D8, D9). -/
def Obligations.IllegalWordsAreRejected : Prop :=
  ∀ w : Word, (∃ e, decode w = .error e) ↔
    (w.toNat % 8 = 0 ∨ w.toNat % 8 = 6 ∨ w.toNat % 8 = 7 ∨
      w.toNat / 32 % 8 ≠ 0 ∨
      (w.toNat % 8 = 2 ∧ w.toNat / 8 % 4 = 3) ∨
      (w.toNat % 8 ≠ 2 ∧ w.toNat / 8 % 4 ≠ 0) ∨
      (w.toNat % 8 ≠ 4 ∧ w.toNat / 256 ≠ 0) ∨
      (w.toNat % 8 = 4 ∧ w.toNat / 256 > 248))

/-! ### One step -/

/-- A step runs the decoded operation. In `IDLE` with `BUSY = 0` it is `exec` of the operation that the host's next word
decodes to, the word gone from the host's program; in every other phase it is `exec` of the operation that `CMD` decodes
to (10_state.md R11; log entries 1 and 7). -/
def Obligations.StepRunsDecodedCommand : Prop :=
  ∀ (s : State) (w : Word) (i : Instr), decode w = .ok i →
    (s.phase = .idle → s.busy = false → ∀ rest, s.program = w :: rest → step s = exec i (setProgram rest s)) ∧
    (s.phase ≠ .idle → s.cmd = w → step s = exec i s)

/-- An illegal word issued in `IDLE` with `BUSY = 0` sets `RES.KIND` to REJECTED and leaves everything else, but that
`RES.CODE` becomes unspecified: for some code and some count of drawn free values (60_exceptions.md R160, the spec's own
D9; log entry 8). -/
def Obligations.IllegalWordIsRejected : Prop :=
  ∀ (s : State) (w : Word) (e : Illegal) (rest : List Word), decode w = .error e → s.phase = .idle → s.busy = false →
    s.program = w :: rest →
    ∃ (code : Byte) (n : Nat),
      step s = .next { s with program := rest, resKind := .rejected, resCode := code, draws := n }

/-- In `IDLE` with no word issued the framer waits: a step changes nothing (10_state.md R21, the spec's own D2). The same in
`IDLE` with `BUSY = 1`, which no run reaches (log entry 16). -/
def Obligations.IdleWaitsForTheHost : Prop :=
  ∀ s : State, s.phase = .idle → (s.program = [] ∨ s.busy = true) → step s = .next s

/-- A word issued while `BUSY = 1`, legal or not, changes nothing (44_operations.md section 1, the spec's own D10). -/
def Obligations.WordWhileBusyChangesNothing : Prop :=
  ∀ (w : Word) (s : State), s.busy = true → issue w s = s

/-- Acceptance: `CMD <- w; BUSY <- 1; PHASE <- BUILD` and nothing else, for every operation (44_operations.md section 1,
the spec's own D9 and D10). -/
def Obligations.AcceptedCommandStartsBuild : Prop :=
  ∀ (i : Instr) (s : State), i.wf = true → s.phase = .idle → s.busy = false →
    exec i s = .next { s with cmd := encode i, busy := true, phase := .build }

/-! ### Reset -/

/-- The reset state: the values 10_state.md section 10 gives (the spec's own D21), with `TXN` CLOSED as it assumes, an
empty trace. A host read of each register it leaves unspecified gives a free value of the register's width, of which nothing
is known, and no value of the model's own; the spec asks a model to refuse that read, and that it completes instead is the
model's choice (log entries 11, 30 and 31). The registers' model values are log entries 10, 11 and 13 and are not
claimed. -/
def Obligations.ResetLeavesControlStateDefined : Prop :=
  State.reset.phase = .idle ∧ State.reset.idx = 0#8 ∧ State.reset.busy = false ∧ State.reset.cmd = 0x0000#16 ∧
  State.reset.resKind = .none ∧ State.reset.frmValid = false ∧ State.reset.txn = .closed ∧ State.reset.trace = [] ∧
  (∀ p ∈ [(HostReg.pktCount, 2), (.pktOpcode, 3), (.pktParam1, 4), (.txfill, 7), (.frmLength, 8), (.resCode, 14),
      (.infoRfu, 15), (.infoDevid, 16), (.infoSilid, 17), (.infoRev, 18)],
    hostRead p.1 State.reset =
      .ok (((Config.unspecified p.2 State.reset.draws State.reset.trace.length).setWidth 8).setWidth 16)) ∧
  (∀ p ∈ [(HostReg.pktParam2, 5), (.pktChecksum, 6), (.frmChecksum, 10), (.calcReg, 11)],
    hostRead p.1 State.reset = .ok (Config.unspecified p.2 State.reset.draws State.reset.trace.length)) ∧
  (∀ i < 252, hostRead (.rxbuf i) State.reset = .ok ((Config.unwritten .rxbuf i).setWidth 16)) ∧
  (∀ i < 32, hostRead (.rnd i) State.reset = .ok ((Config.unwritten .rnd i).setWidth 16)) ∧
  (∀ i < 16, hostRead (.ser i) State.reset = .ok ((Config.unwritten .ser i).setWidth 16))

/-- The reset event from any state: the control state of reset, no event, and the transport and the engine left as they
are (70_reset_and_hazards.md section 1, the spec's own D21). -/
def Obligations.ResetEventTouchesNoCollaborator : Prop :=
  ∀ s : State, (applyReset s).phase = .idle ∧ (applyReset s).busy = false ∧ (applyReset s).idx = 0#8 ∧
    (applyReset s).cmd = 0x0000#16 ∧ (applyReset s).resKind = .none ∧ (applyReset s).frmValid = false ∧
    (applyReset s).trace = s.trace ∧ (applyReset s).txn = s.txn ∧ (applyReset s).eng = s.eng ∧
    (applyReset s).cfg = s.cfg

/-! ### BUILD, WAIT, CLASSIFY, INITMAP, DONE: the steps of every operation that make no bus transfer -/

/-- BUILD of every operation writes its row of 30_encoding.md section 3 and nothing else: the constants, `TXFILL`, and
`PKT.COUNT = OVERHEAD + n` in 8 bits, which is `7 + n` without a wrap for the document's `OVERHEAD`; `PKT.CHECKSUM` is not
written (41_command_builder.md; variants D5, constants open D6, `n` D8). -/
def Obligations.BuildWritesThePacket : Prop :=
  ∀ (i : Instr) (s : State), i.wf = true → s.phase = .build →
    (s.cfg.overhead = 7#8 → (s.cfg.overhead + fillerOf i).toNat = 7 + (fillerOf i).toNat) ∧
    exec i s = .next { s with
      pktCount := s.cfg.overhead + fillerOf i
      pktOpcode := opcodeOf s.cfg i
      pktParam1 := param1Of s.cfg i
      pktParam2 := param2Of s.cfg i
      txfill := fillerOf i
      written := { s.written with packet := true }
      phase := .txCrcInit }

/-- BUILD for INIT is identical to BUILD for SELFTEST DRBG (41_command_builder.md R105). -/
def Obligations.InitBuildsAsSelftestDrbg : Prop :=
  ∀ s : State, s.phase = .build → exec .init s = exec .selftestDrbg s

/-- WAIT is one `DelayMs` of the operation's settle time, `T_SELFTEST` for SELFTEST and INIT, `T_RANDOM`, `T_INFO` and
`T_SERIAL` for the others, and nothing else, whenever the delay primitive returns (44_operations.md R131; no clock, D22). -/
def Obligations.WaitDelaysTheSettleTime : Prop :=
  ∀ (i : Instr) (s : State), s.phase = .wait → s.callsLeft ≠ some 0 →
    exec i s = .next { s with
      callsLeft := s.callsLeft.map (· - 1)
      trace := s.trace ++ [.delayMs (settleOf s.cfg i)]
      phase := .rxCrcInit }

/-- CLASSIFY, arm 1, for every operation: the byte of a valid standard frame is the outcome's code, whatever it is, under the
kind STATUS, and no data register is written (44_operations.md R140, R132). The kind beside the code is the spec's own D4 (log
entry 27); that `INFO.*`, `RND` and `SER` are unchanged in STATUS, for every operation, is its D15 (log entry 21). -/
def Obligations.StandardFramePassesThrough : Prop :=
  ∀ (i : Instr) (s : State) (b : Byte), s.phase = .classify → s.frmValid = true →
    s.frmLength = s.cfg.frameStd → memRead s.rxbuf 0 = some b →
    exec i s = .next { s with resKind := .status, resCode := b, phase := afterOf i }

/-- CLASSIFY, arm 2, for INFO: the four payload bytes of a valid frame of length `FRAME_INFO` in order, and SUCCESS. It is
arm 2 where `FRAME_INFO` is not `FRAME_STD`, as in the document (44_operations.md R134, R132). -/
def Obligations.InfoDeliversDeviceInfo : Prop :=
  ∀ (s : State) (b0 b1 b2 b3 : Byte), s.phase = .classify → s.frmValid = true → s.frmLength = s.cfg.frameInfo →
    s.cfg.frameInfo ≠ s.cfg.frameStd →
    memRead s.rxbuf 0 = some b0 → memRead s.rxbuf 1 = some b1 → memRead s.rxbuf 2 = some b2 →
    memRead s.rxbuf 3 = some b3 →
    exec .info s = .next { s with
      infoRfu := b0
      infoDevid := b1
      infoSilid := b2
      infoRev := b3
      written := { s.written with info := true }
      resKind := .success
      resCode := s.cfg.stSuccess
      phase := .done }

/-- CLASSIFY, arm 2, for RANDOM, whatever its filler count: exactly the first `RANDOM_LEN` payload bytes of a valid frame of
length `FRAME_RANDOM` into `RND`, and SUCCESS; no other byte of `RND` and no other register changes. In the document
`RANDOM_LEN` is 32 and `FRAME_RANDOM` is 35 (44_operations.md R135, R132). -/
def Obligations.RandomDelivers32Bytes : Prop :=
  ∀ (n : Byte) (s : State), s.phase = .classify → s.frmValid = true → s.frmLength = s.cfg.frameRandom →
    s.cfg.frameRandom ≠ s.cfg.frameStd → (∀ j < s.cfg.randomLen, (memRead s.rxbuf j).isSome = true) →
    ∃ m : Memory,
      exec (.random n) s =
        .next { s with rnd := m, resKind := .success, resCode := s.cfg.stSuccess, phase := .done } ∧
      ∀ j, memRead m j = if j < s.cfg.randomLen then memRead s.rxbuf j else memRead s.rnd j

/-- CLASSIFY, arm 2, for SERIAL: exactly the 16 payload bytes of a valid frame of length `FRAME_SERIAL` into `SER`, and
SUCCESS; no other byte of `SER` and no other register changes (44_operations.md R136, R132; all 16 bytes is the spec's own
D16). -/
def Obligations.SerialDelivers16Bytes : Prop :=
  ∀ s : State, s.phase = .classify → s.frmValid = true → s.frmLength = s.cfg.frameSerial →
    s.cfg.frameSerial ≠ s.cfg.frameStd →
    (∀ j < 16, (memRead s.rxbuf j).isSome = true) →
    ∃ m : Memory,
      exec .serial s = .next { s with ser := m, resKind := .success, resCode := s.cfg.stSuccess, phase := .done } ∧
      ∀ j, memRead m j = if j < 16 then memRead s.rxbuf j else memRead s.ser j

/-- OtherError, for every operation: CLASSIFY gives it when the frame is invalid, or valid with a length that is neither
`FRAME_STD` nor the operation's expected one (none for SELFTEST and INIT), recording nothing else; and no step of any
operation gives it in another case (60_exceptions.md R153). That SELFTEST and INIT have no expected length is the spec's own
D17; that `INFO.*`, `RND` and `SER` are unchanged on OtherError too is its D15, inferred there (log entry 21). -/
def Obligations.OtherErrorFromTheThirdArmOnly : Prop :=
  (∀ (i : Instr) (s : State), s.phase = .classify →
    (s.frmValid = false ∨ (s.frmLength ≠ s.cfg.frameStd ∧ expectedOf s.cfg i ≠ some s.frmLength)) →
    exec i s = .next { s with resKind := .otherError, resCode := s.cfg.stOtherError, phase := afterOf i }) ∧
  (∀ (i : Instr) (s t : State), exec i s = .next t → s.resKind ≠ .otherError → t.resKind = .otherError →
    s.phase = .classify ∧
      (s.frmValid = false ∨ (s.frmLength ≠ s.cfg.frameStd ∧ expectedOf s.cfg i ≠ some s.frmLength)))

/-- INITMAP: only `(STATUS, SELFTEST_PASS)` becomes `(SUCCESS, ST_SUCCESS)`; every other inner outcome, BusError and
OtherError included, becomes `(INIT_FAIL, ST_INIT_FAIL)`; nothing else changes (44_operations.md R137; the spec's own
D18). -/
def Obligations.InitMapsTheInnerOutcome : Prop :=
  ∀ s : State, s.phase = .initmap →
    (s.resKind = .status ∧ s.resCode = s.cfg.selftestPass →
      exec .init s = .next { s with resKind := .success, resCode := s.cfg.stSuccess, phase := .done }) ∧
    (¬(s.resKind = .status ∧ s.resCode = s.cfg.selftestPass) →
      exec .init s = .next { s with resKind := .initFail, resCode := s.cfg.stInitFail, phase := .done })

/-- INIT takes the steps of SELFTEST DRBG: in every busy phase the same next state, but that INITMAP follows CLASSIFY and
TX_ABORT (30_encoding.md R80, 44_operations.md R137; the spec's own D18). -/
def Obligations.InitStepsAsSelftestDrbg : Prop :=
  ∀ s : State, s.phase ≠ .idle →
    (s.phase ≠ .txAbort → s.phase ≠ .classify → exec .init s = exec .selftestDrbg s) ∧
    (∀ t, exec .selftestDrbg s = .next t → s.phase = .txAbort ∨ s.phase = .classify →
      exec .init s = .next (if t.phase = .done then { t with phase := .initmap } else t))

/-- DONE of every operation: `BUSY <- 0; PHASE <- IDLE` and nothing else (44_operations.md R139). -/
def Obligations.DoneReleasesTheHost : Prop :=
  ∀ (i : Instr) (s : State), s.phase = .done → exec i s = .next { s with busy := false, phase := .idle }

/-! ### Bus writes that fail -/

/-- In each phase that writes, for every operation, a failed write goes to the abort phase with that write as its one
event; the abort's one event is `BusStop`, it closes the transaction and writes `RES <- (BUS_ERROR, ST_BUS_ERROR)`, and
`DONE` follows (`INITMAP` for INIT) (42_frame_transmitter.md R111; every write can abort is the spec's own D12). -/
def Obligations.FailedWriteAborts : Prop :=
  ∀ (i : Instr) (s : State) (rest : List BusResult), writesBus s.phase = true →
    (s.phase = .txHdrWr → s.idx.toNat ≤ 4) → s.callsLeft = none → s.acks = .busError :: rest →
    ∃ (t : State) (b : Byte), exec i s = .next t ∧ t.phase = .txAbort ∧
      t = { s with phase := .txAbort, idx := t.idx, acks := rest, trace := s.trace ++ [.busWrite b .busError] } ∧
      exec i t = .next { t with
        phase := afterOf i
        txn := .closed
        trace := t.trace ++ [.busStop]
        resKind := .busError
        resCode := s.cfg.stBusError }

/-- BusError is raised in the five write phases only, and only by a failed write: no other step enters the abort phase, and
only the abort phase writes BUS_ERROR (60_exceptions.md R152; the spec's own D12). -/
def Obligations.BusErrorFromFailedWritesOnly : Prop :=
  ∀ (i : Instr) (s t : State), exec i s = .next t →
    (s.phase ≠ .txAbort → t.phase = .txAbort → writesBus s.phase = true ∧ nextAck s = .busError) ∧
    (s.resKind ≠ .busError → t.resKind = .busError → s.phase = .txAbort)

/-! ### TRANSMIT and RECEIVE as a whole -/

/-- A TRANSMIT of any operation in which every write is answered `ok` ends in `WAIT` after exactly the events of
42_frame_transmitter.md R110, in wire order; `PKT.CHECKSUM` is the checksum over header and fillers; the transaction is
closed; besides `IDX`, `ENG` and the count of drawn free values nothing else changes (R112 to R115; interleaving D11). -/
def Obligations.TransmitSendsTheFrame : Prop :=
  ∀ (s : State) (i : Instr) (rest : List BusResult), s.phase = .txCrcInit → decode s.cmd = .ok i →
    s.callsLeft = none → s.acks = List.replicate (8 + s.txfill.toNat) .ok ++ rest →
    ∃ (k : Nat) (t : State), Host.Core.run Sys2Proof.core k s = .next t ∧
      t = { s with
        phase := .wait
        pktChecksum := crcOf s.cfg (frameBody s)
        written := { s.written with pktChecksum := true }
        idx := t.idx
        eng := t.eng
        txn := .closed
        acks := rest
        draws := t.draws
        trace := s.trace ++ transmitEvents s.cfg (frameBody s) (crcOf s.cfg (frameBody s)) }

/-- A TRANSMIT of any operation whose write number `k` (counted from 0, the execute byte first) fails: the transport sees
the first `k` bytes, the failed one and one `BusStop`, the engine the updates of the bytes attempted and a `CrcResult` only
if a checksum byte was reached; the outcome is BusError; besides `IDX`, `ENG` and the count of drawn free values nothing
else changes (42_frame_transmitter.md R111, R113, R114; the spec's own D12). -/
def Obligations.TransmitAbortsAtTheFailedWrite : Prop :=
  ∀ (s : State) (i : Instr) (k : Nat) (rest : List BusResult), s.phase = .txCrcInit → decode s.cmd = .ok i →
    s.callsLeft = none → k < 8 + s.txfill.toNat → s.acks = List.replicate k .ok ++ .busError :: rest →
    ∃ (n : Nat) (t : State) (new : List Event), Host.Core.run Sys2Proof.core n s = .next t ∧
      new.filter onTransport = abortedTransport s.cfg (wireBytes s.cfg (frameBody s)) k ∧
      new.filter onEngine = abortedEngine s.cfg (frameBody s) k ∧
      (∀ ms, Event.delayMs ms ∉ new) ∧
      t = { s with
        phase := afterOf i
        pktChecksum := if 6 + s.txfill.toNat ≤ k then crcOf s.cfg (frameBody s) else s.pktChecksum
        written := { s.written with pktChecksum := s.written.pktChecksum || decide (6 + s.txfill.toNat ≤ k) }
        idx := t.idx
        eng := t.eng
        txn := .closed
        acks := rest
        draws := t.draws
        resKind := .busError
        resCode := s.cfg.stBusError
        trace := s.trace ++ new }

/-- The command checksum, for every operation. A TRANSMIT in which no write fails asks for it once, after the last header
or filler byte has been written and before the first checksum byte, sends it low byte first, and `PKT.CHECKSUM` is the
checksum of count, opcode, param1, param2 low, param2 high and the fillers; a TRANSMIT that aborts before its first checksum
byte does not ask for it and leaves `PKT.CHECKSUM` (40_checksum_sequencer.md R94). That every failed write before the first
checksum byte aborts, whichever byte it carries, is the spec's own D12 (log entry 21); a TRANSMIT that aborts at a checksum
byte has asked for the checksum once and is `Obligations.TransmitAbortsAtTheFailedWrite`. -/
def Obligations.CommandChecksumCoversTheFrameBeforeIt : Prop :=
  ∀ (s : State) (i : Instr) (rest : List BusResult), s.phase = .txCrcInit → decode s.cmd = .ok i → s.callsLeft = none →
    (s.acks = List.replicate (8 + s.txfill.toNat) .ok ++ rest →
      ∃ (k : Nat) (t : State) (before : List Event), Host.Core.run Sys2Proof.core k s = .next t ∧ t.phase = .wait ∧
        t.pktChecksum = crcOf s.cfg ([s.pktCount, s.pktOpcode, s.pktParam1, loByte s.pktParam2, hiByte s.pktParam2]
          ++ List.replicate s.txfill.toNat s.cfg.filler) ∧
        t.trace = s.trace ++ before ++ [.crcResult t.pktChecksum, .busWrite (loByte t.pktChecksum) .ok,
          .busWrite (hiByte t.pktChecksum) .ok, .busStop] ∧
        (before.filter writesByte).length = 6 + s.txfill.toNat ∧ ∀ c, Event.crcResult c ∉ before) ∧
    (∀ k, k < 6 + s.txfill.toNat → s.acks = List.replicate k .ok ++ .busError :: rest →
      ∃ (n : Nat) (t : State) (new : List Event), Host.Core.run Sys2Proof.core n s = .next t ∧ t.phase = afterOf i ∧
        t.trace = s.trace ++ new ∧ t.pktChecksum = s.pktChecksum ∧ ∀ c, Event.crcResult c ∉ new)

/-- A RECEIVE of any operation, whatever the bus returns, always ends in `CLASSIFY` after exactly the events of
43_frame_receiver.md R120. Of its `m + 3` reads the last and only the last is `nack` (R122); `FRM.CHECKSUM` is the two
trailing bytes, the first one low, `CALC` is the checksum over the length and the payload, `FRM.VALID` is their equality
(R123); `RXBUF[0 .. m-1]` holds the payload as read, valid or not, and every other byte of it is unchanged (R124). The bytes
read are the script's as far as it goes. Besides `IDX`, `ENG` and the count of drawn free values nothing else changes. For a
length below 3, `m` is 0 (the spec's own D13). `RXBUF` has room for every payload, as with its 252 bytes (the spec's own
D14; log entry 18). -/
def Obligations.ReceiveReadsTheFrame : Prop :=
  ∀ (s : State) (i : Instr), 252 ≤ s.cfg.rxbufSize → s.phase = .rxCrcInit → decode s.cmd = .ok i →
    s.callsLeft = none →
    ∃ (k : Nat) (t : State) (len : Byte) (payload : List Byte) (lo hi : Byte) (new : List Event),
      Host.Core.run Sys2Proof.core k s = .next t ∧
      payload.length = len.toNat - 3 ∧
      s.bytes.take (payload.length + 3) <+: len :: (payload ++ [lo, hi]) ∧
      new = receiveEvents s.cfg len payload lo hi (crcOf s.cfg (len :: payload)) ∧
      readKinds new = List.replicate (payload.length + 2) .ack ++ [.nack] ∧
      (∀ j, memRead t.rxbuf j = if j < payload.length then payload[j]? else memRead s.rxbuf j) ∧
      t = { s with
        phase := .classify
        frmLength := len
        frmChecksum := BitVec.ofNat 16 (256 * hi.toNat + lo.toNat)
        calcReg := crcOf s.cfg (len :: payload)
        frmValid := decide (crcOf s.cfg (len :: payload) = BitVec.ofNat 16 (256 * hi.toNat + lo.toNat))
        written := { s.written with frmLength := true, frmChecksum := true, calcReg := true }
        rxbuf := t.rxbuf
        idx := t.idx
        eng := t.eng
        txn := .closed
        bytes := s.bytes.drop (payload.length + 3)
        draws := t.draws
        trace := s.trace ++ new }

/-- A RECEIVE of any operation, whatever the bus returns, makes `m + 3` reads, the last and only the last with `nack`. The
bytes read are the length, the payload and the two checksum bytes, low first; the frame is valid exactly when `CALC` equals
`FRM.CHECKSUM`; `RXBUF[0 .. m-1]` holds the payload exactly as read, valid or not, and no other byte of it changes
(43_frame_receiver.md R122, R123, R124). `m` is the declared length less 3; nothing is said of `m` for a declared length
below 3. `RXBUF` has room for every payload: the 252 bytes of 10_state.md R16, or more. -/
def Obligations.ReceivedFrameIsJudgedByItsChecksum : Prop :=
  ∀ (s : State) (i : Instr), 252 ≤ s.cfg.rxbufSize → s.phase = .rxCrcInit → decode s.cmd = .ok i →
    s.callsLeft = none →
    ∃ (k : Nat) (t : State) (payload : List Byte) (lo hi : Byte) (new : List Event),
      Host.Core.run Sys2Proof.core k s = .next t ∧ t.phase = .classify ∧ t.trace = s.trace ++ new ∧
      (3 ≤ t.frmLength.toNat → payload.length = t.frmLength.toNat - 3) ∧
      readKinds new = List.replicate (payload.length + 2) .ack ++ [.nack] ∧
      readBytes new = t.frmLength :: (payload ++ [lo, hi]) ∧
      t.frmChecksum.toNat = 256 * hi.toNat + lo.toNat ∧
      t.calcReg = crcOf s.cfg (t.frmLength :: payload) ∧
      (t.frmValid = true ↔ t.calcReg = t.frmChecksum) ∧
      (∀ j, memRead t.rxbuf j = if j < payload.length then payload[j]? else memRead s.rxbuf j)

/-- Sixteen-bit fields, for every operation: `PKT.CHECKSUM` and `PKT.PARAM2` are sent `w[7:0]` first and `w[15:8]` second,
and `FRM.CHECKSUM` is assembled as `hi ‖ lo` from the first and the second trailing byte (30_encoding.md R66). -/
def Obligations.SixteenBitFieldsLowByteFirst : Prop :=
  (∀ (i : Instr) (s : State) (rest : List BusResult), s.callsLeft = none → s.acks = .ok :: rest → s.phase = .txCkLo →
    ∃ t, exec i s = .next t ∧ t.phase = .txCkHi ∧ t.pktChecksum = s.pktChecksum ∧
      t.trace = s.trace ++ [.busWrite (BitVec.ofNat 8 (s.pktChecksum.toNat % 256)) .ok]) ∧
  (∀ (i : Instr) (s : State) (rest : List BusResult), s.callsLeft = none → s.acks = .ok :: rest → s.phase = .txCkHi →
    ∃ t, exec i s = .next t ∧ t.phase = .txStop ∧
      t.trace = s.trace ++ [.busWrite (BitVec.ofNat 8 (s.pktChecksum.toNat / 256)) .ok]) ∧
  (∀ (i : Instr) (s : State) (rest : List BusResult), s.callsLeft = none → s.acks = .ok :: rest → s.phase = .txHdrWr →
    s.idx = 3#8 →
    ∃ t, exec i s = .next t ∧ t.phase = .txHdrUpd ∧ t.idx = 4#8 ∧ t.pktParam2 = s.pktParam2 ∧
      t.trace = s.trace ++ [.busWrite (BitVec.ofNat 8 (s.pktParam2.toNat % 256)) .ok]) ∧
  (∀ (i : Instr) (s : State) (rest : List BusResult), s.callsLeft = none → s.acks = .ok :: rest → s.phase = .txHdrWr →
    s.idx = 4#8 →
    ∃ t, exec i s = .next t ∧ t.trace = s.trace ++ [.busWrite (BitVec.ofNat 8 (s.pktParam2.toNat / 256)) .ok]) ∧
  (∀ (i : Instr) (s : State) (lo hi : Byte) (rest : List Byte), s.callsLeft = none → s.phase = .rxCkLo →
    s.bytes = lo :: hi :: rest →
    ∃ t u, exec i s = .next t ∧ exec i t = .next u ∧ u.phase = .rxStop ∧
      u.frmChecksum.toNat = 256 * hi.toNat + lo.toNat)

/-! ### Whole operations -/

/-- Every operation, from issue to completion, when the writes are answered `ok` and the device answers with the frame
`len`, `payload`, `lo`, `hi`: the command is accepted, and after finitely many steps the framer is idle again with the
outcome of 44_operations.md R132 (INIT: mapped by R137), the trace is TRANSMIT, one `DelayMs` and RECEIVE in that order and
nothing else, the frame descriptor is the received frame's, and the data registers hold the payload on a SUCCESS of their
own operation and are unchanged otherwise (R130 to R137, R142). The order of engine and bus events in the one trace is the
spec's own D11 (log entry 20); `m` for a length below 3 its D13 (log entry 17); that the data registers are unchanged on
every other outcome its D15, that `SER` holds all 16 payload bytes its D16, the mapping of INIT its D18 (log entry 21); no
expected length for SELFTEST and INIT its D17. The premise `FramesFit` holds of the document's frame lengths,
and the premise that the payload fits `RXBUF` of every payload with its 252 bytes, the spec's own D14, log entry 18
(`Obligations.ConfigurationHasTheDocumentsLiterals`). -/
def Obligations.OperationReachesItsOutcome : Prop :=
  ∀ (i : Instr) (s : State) (words : List Word) (acks : List BusResult) (len lo hi : Byte)
    (payload bytes : List Byte), FramesFit s.cfg → i.wf = true → s.phase = .idle → s.busy = false → s.program = encode i :: words →
    s.callsLeft = none → s.acks = List.replicate (8 + (fillerOf i).toNat) .ok ++ acks →
    payload.length = len.toNat - 3 → payload.length ≤ s.cfg.rxbufSize →
    s.bytes = len :: (payload ++ lo :: hi :: bytes) →
    ∃ (s1 t : State) (k : Nat), step s = .next s1 ∧ exec i (setProgram words s) = .next s1 ∧
      Host.Core.run Sys2Proof.core k s1 = .next t ∧
      t.phase = .idle ∧ t.busy = false ∧ t.cmd = encode i ∧ t.program = words ∧ t.acks = acks ∧ t.bytes = bytes ∧
      t.txn = .closed ∧ t.cfg = s.cfg ∧
      t.trace = s.trace ++
        (transmitEvents s.cfg (commandBody s.cfg i) (crcOf s.cfg (commandBody s.cfg i)) ++
          .delayMs (settleOf s.cfg i) :: receiveEvents s.cfg len payload lo hi (crcOf s.cfg (len :: payload))) ∧
      (t.resKind, t.resCode) = finalOutcome s.cfg i
        (frameOutcome s.cfg i (decide (crcOf s.cfg (len :: payload) = joinBytes hi lo)) len payload) ∧
      t.pktChecksum = crcOf s.cfg (commandBody s.cfg i) ∧
      t.frmLength = len ∧ t.frmChecksum = joinBytes hi lo ∧ t.calcReg = crcOf s.cfg (len :: payload) ∧
      t.frmValid = decide (crcOf s.cfg (len :: payload) = joinBytes hi lo) ∧
      (∀ j, memRead t.rxbuf j = if j < payload.length then payload[j]? else memRead s.rxbuf j) ∧
      (if i = .info ∧ t.resKind = .success
        then [t.infoRfu, t.infoDevid, t.infoSilid, t.infoRev] = payload.take 4
        else t.infoRfu = s.infoRfu ∧ t.infoDevid = s.infoDevid ∧ t.infoSilid = s.infoSilid ∧ t.infoRev = s.infoRev) ∧
      (if (∃ n, i = .random n) ∧ t.resKind = .success
        then ∀ j < s.cfg.randomLen, memRead t.rnd j = payload[j]?
        else t.rnd = s.rnd) ∧
      (if i = .serial ∧ t.resKind = .success
        then ∀ j < 16, memRead t.ser j = payload[j]?
        else t.ser = s.ser)

/-- Every operation whose write number `k` (from 0) fails ends idle in BusError (INIT: InitFailure) with no delay and no
read transaction; the frame descriptor, `CALC`, `RXBUF` and all data registers are unchanged (60_exceptions.md R155,
44_operations.md R130; the spec's own D12, D15, D18). -/
def Obligations.AbortedOperationLeavesResultsUnchanged : Prop :=
  ∀ (i : Instr) (s : State) (words : List Word) (acks : List BusResult) (k : Nat), i.wf = true → s.phase = .idle →
    s.busy = false → s.program = encode i :: words → s.callsLeft = none → k < 8 + (fillerOf i).toNat →
    s.acks = List.replicate k .ok ++ .busError :: acks →
    ∃ (s1 t : State) (n : Nat) (new : List Event), step s = .next s1 ∧ exec i (setProgram words s) = .next s1 ∧
      Host.Core.run Sys2Proof.core n s1 = .next t ∧
      t.phase = .idle ∧ t.busy = false ∧ t.cmd = encode i ∧ t.txn = .closed ∧ t.bytes = s.bytes ∧ t.acks = acks ∧
      (t.resKind, t.resCode) = finalOutcome s.cfg i (.busError, s.cfg.stBusError) ∧
      t.trace = s.trace ++ new ∧
      new.filter onTransport = abortedTransport s.cfg (wireBytes s.cfg (commandBody s.cfg i)) k ∧
      (∀ ms, Event.delayMs ms ∉ new) ∧
      t.frmLength = s.frmLength ∧ t.frmValid = s.frmValid ∧ t.frmChecksum = s.frmChecksum ∧ t.calcReg = s.calcReg ∧
      t.rxbuf = s.rxbuf ∧ t.infoRfu = s.infoRfu ∧ t.infoDevid = s.infoDevid ∧ t.infoSilid = s.infoSilid ∧
      t.infoRev = s.infoRev ∧ t.rnd = s.rnd ∧ t.ser = s.ser

/-- Round trip: if the bytes of a command frame, from `count` to checksum high, come back unchanged, the RECEIVE ends with
`FRM.LENGTH = PKT.COUNT`, `m = PKT.COUNT - 3`, `CALC = FRM.CHECKSUM` = the command's checksum, and `FRM.VALID = 1`, for
every engine. The bytes fit `RXBUF`, as any do with its 252 bytes (40_checksum_sequencer.md section 5; the spec's own D14,
log entry 18). -/
def Obligations.LoopbackIsValid : Prop :=
  ∀ (s : State) (i : Instr) (rest : List Byte), s.phase = .rxCrcInit → decode s.cmd = .ok i → s.callsLeft = none →
    s.pktCount.toNat = 7 + s.txfill.toNat → 4 + s.txfill.toNat ≤ s.cfg.rxbufSize →
    s.pktChecksum = crcOf s.cfg (frameBody s) →
    s.bytes = frameBody s ++ [loByte s.pktChecksum, hiByte s.pktChecksum] ++ rest →
    ∃ (k : Nat) (t : State), Host.Core.run Sys2Proof.core k s = .next t ∧ t.phase = .classify ∧ t.bytes = rest ∧
      t.frmLength = s.pktCount ∧ payloadLen t = s.pktCount.toNat - 3 ∧ t.calcReg = s.pktChecksum ∧
      t.frmChecksum = s.pktChecksum ∧ t.frmValid = true

/-- Fault injection: a frame that is received as valid is received as invalid when any single bit of its payload bytes,
under `SINGLE_BIT_DETECT`, or of its checksum bytes, for every engine, is flipped. A flip in a payload byte changes `CALC` and not `FRM.CHECKSUM`; a flip in a
checksum byte changes `FRM.CHECKSUM` and not `CALC`, and for that half no property of the engine is assumed
(40_checksum_sequencer.md R97). For a length below 3 there is no payload byte, the spec's own D13 (log entry 17).
The payload fits `RXBUF`, as any does with its 252 bytes (the spec's own D14, log entry 18). -/
def Obligations.SingleBitFlipInvalidatesTheFrame : Prop :=
  ∀ (s : State) (i : Instr) (len lo hi : Byte) (payload rest : List Byte) (j b : Nat),
    (j ≤ payload.length → SingleBitDetect s.cfg) →
    s.phase = .rxCrcInit → decode s.cmd = .ok i → s.callsLeft = none → payload.length = payloadCount len →
    payload.length ≤ s.cfg.rxbufSize → crcOf s.cfg (len :: payload) = joinBytes hi lo →
    s.bytes = len :: (payload ++ [lo, hi]) ++ rest →
    0 < j → j < payload.length + 3 → b < 8 →
    ∃ (k : Nat) (t u : State), Host.Core.run Sys2Proof.core k s = .next t ∧
      Host.Core.run Sys2Proof.core k { s with bytes := flipBit (len :: (payload ++ [lo, hi])) j b ++ rest } = .next u ∧
      t.phase = .classify ∧ t.frmValid = true ∧ u.phase = .classify ∧ u.frmValid = false ∧
      (j ≤ payload.length → u.calcReg ≠ t.calcReg ∧ u.frmChecksum = t.frmChecksum) ∧
      (payload.length < j → u.calcReg = t.calcReg ∧ u.frmChecksum ≠ t.frmChecksum)

/-- Every accepted operation ends: from any busy state of the invariant in which every primitive returns, at most 1032
steps lead to `IDLE` with `BUSY = 0`, whatever the bus answers, when `RXBUF` has room for every payload, as with its 252 bytes
(44_operations.md R139; the spec's own D14, log entry 18). -/
def Obligations.EveryOperationEnds : Prop :=
  ∀ s : State, Inv s → 252 ≤ s.cfg.rxbufSize → s.phase ≠ .idle → s.callsLeft = none →
    ∃ (k : Nat) (t : State), k ≤ 1032 ∧ Host.Core.run Sys2Proof.core k s = .next t ∧ t.phase = .idle ∧ t.busy = false

/-- Nothing is carried over: two idle states that agree on the host's program, the configuration and the oracle's answers,
whatever their registers hold, run in step: the same phases, the same new events, the same `BUSY` and, once an operation has
ended, the same outcome, when a standard frame is long enough to carry its status byte, as the document's is
(44_operations.md section 5, R143). -/
def Obligations.OutcomeIndependentOfHistory : Prop :=
  ∀ (s u : State) (w : Word) (rest : List Word) (k : Nat) (t : State),
    4 ≤ s.cfg.frameStd.toNat → s.phase = .idle → u.phase = .idle → s.busy = false → u.busy = false →
    s.program = w :: rest → u.program = w :: rest → u.cfg = s.cfg → u.acks = s.acks → u.bytes = s.bytes →
    u.callsLeft = s.callsLeft → u.draws = s.draws → Host.Core.run Sys2Proof.core k s = .next t →
    ∃ (v : State) (new : List Event), Host.Core.run Sys2Proof.core k u = .next v ∧
      t.trace = s.trace ++ new ∧ v.trace = u.trace ++ new ∧ v.phase = t.phase ∧ v.busy = t.busy ∧
      (0 < k → t.phase = .idle → v.resKind = t.resKind ∧ v.resCode = t.resCode)

/-! ### Invariants -/

/-- The reset state meets the three invariants. After a reset event with `TXN = CLOSED`, `Inv` and `ChecksumInv` hold; and
after one where the trace stands at a closed transaction, `BusDiscipline` holds. A reset event leaves the transport and the
trace as they are, so without these premises it would leave a transaction open (10_state.md section 10,
70_reset_and_hazards.md section 1; the spec's own D21, log entry 14). -/
def Obligations.ResetMeetsTheInvariants : Prop :=
  Inv State.reset ∧ ChecksumInv State.reset ∧ BusDiscipline State.reset ∧
    (∀ s : State, s.txn = .closed → Inv (applyReset s) ∧ ChecksumInv (applyReset s)) ∧
    (∀ s : State, busPoint s.trace = some .closed → BusDiscipline (applyReset s))

/-- Every step keeps the invariant `Inv`: buffers canonical and inside their sizes, `BUSY` exactly outside `IDLE`, `CMD`
legal, the packet that of the running operation with `COUNT = OVERHEAD + TXFILL`, `IDX` in range, `TXN` as the phase says, the
outcome one the operation can have with its code (10_state.md, 41_command_builder.md section on R106, 60_exceptions.md
section 1). -/
def Obligations.EveryStepKeepsTheInvariant : Prop :=
  ∀ s t : State, Inv s → step s = .next t → Inv t

/-- From a state of the invariant every step answers a next state: no fault and no refusal can happen, when `RXBUF` has room
for every payload, as with its 252 bytes (10_state.md section 6, the spec's own D14; log entries 15 and 18). -/
def Obligations.EveryStepFromInvariantStatesAnswers : Prop :=
  ∀ s : State, Inv s → 252 ≤ s.cfg.rxbufSize → ∃ t, step s = .next t

/-- Every step keeps the checksum invariant: the engine has been fed exactly the frame bytes so far, `PKT.CHECKSUM` covers
header and fillers, and at `CLASSIFY` `CALC` covers length and payload and `FRM.VALID` is its equality with `FRM.CHECKSUM`
(40_checksum_sequencer.md R92 to R95, 43_frame_receiver.md R123). -/
def Obligations.EveryStepKeepsTheChecksums : Prop :=
  ∀ s t : State, Inv s → ChecksumInv s → step s = .next t → ChecksumInv t

/-- Every step keeps the trace a well-formed sequence of transactions (20_memory.md section 7). -/
def Obligations.EveryStepKeepsTransactionsWellFormed : Prop :=
  ∀ s t : State, BusDiscipline s → step s = .next t → BusDiscipline t

/-- A step adds at most one event. In `IDLE` and the internal phases it adds none. In a phase that calls a primitive it adds
exactly the event of that phase's row (10_state.md section 6, column "event", here `eventOf`), of the running operation, and
one call fewer is left, unless the primitive never returns, when nothing changes (20_memory.md section 7; one event per step
is the spec's own D2; the count of calls that still return, and that one that does not return is not recorded, are log entry
6). -/
def Obligations.StepAddsTheEventOfItsPhase : Prop :=
  ∀ s t : State, step s = .next t →
    (callsPrimitive s.phase = false → t.trace = s.trace) ∧
    (callsPrimitive s.phase = true → s.callsLeft = some 0 → t = s) ∧
    (callsPrimitive s.phase = true → s.callsLeft ≠ some 0 →
      (∃ i e, decode s.cmd = .ok i ∧ eventOf i s = some e ∧ t.trace = s.trace ++ [e]) ∧
      t.callsLeft = s.callsLeft.map (· - 1))

/-- A primitive that never returns leaves the framer in its phase with nothing changed and `BUSY` set, in every state of the
invariant (93_implementation_defined.md U9; log entry 6). -/
def Obligations.CallThatNeverReturnsHoldsThePhase : Prop :=
  ∀ s : State, Inv s → callsPrimitive s.phase = true → s.callsLeft = some 0 → step s = .next s ∧ s.busy = true

/-- No step writes the configuration (10_state.md R29, 20_memory.md R55; carried in the state by log entry 2). -/
def Obligations.NoStepWritesTheConfiguration : Prop :=
  ∀ s t : State, step s = .next t → t.cfg = s.cfg

/-! ### Frames -/

/-- TRANSMIT's steps, for every operation, write `PKT.CHECKSUM`, in `TX_CRCRES` only, `IDX` and `PHASE`, and outside the
framer `ENG` and `TXN`; every other register and every byte of the buffers is unchanged (42_frame_transmitter.md section on
R114). -/
def Obligations.TransmitLeavesTheRest : Prop :=
  ∀ (i : Instr) (s t : State), inTransmit s.phase = true → exec i s = .next t →
    (s.phase ≠ .txCrcRes → t.pktChecksum = s.pktChecksum ∧ t.written = s.written) ∧
    t = { s with
      pktChecksum := t.pktChecksum
      written := { s.written with pktChecksum := t.written.pktChecksum }
      idx := t.idx
      phase := t.phase
      eng := t.eng
      txn := t.txn
      acks := t.acks
      callsLeft := t.callsLeft
      draws := t.draws
      trace := t.trace }

/-- RECEIVE's steps, for every operation, write the frame descriptor, `CALC`, `IDX`, `PHASE`, and in `RX_PAY_RD` the one
byte `RXBUF[IDX]`; outside the framer `ENG` and `TXN`; every other register, every other byte of `RXBUF` and every byte of
`RND` and `SER` is unchanged (43_frame_receiver.md section on R128). -/
def Obligations.ReceiveLeavesTheRest : Prop :=
  ∀ (i : Instr) (s t : State), inReceive s.phase = true → exec i s = .next t →
    (s.phase ≠ .rxPayRd → t.rxbuf = s.rxbuf) ∧
    (∀ j, j ≠ s.idx.toNat → memRead t.rxbuf j = memRead s.rxbuf j) ∧
    t = { s with
      frmLength := t.frmLength
      frmValid := t.frmValid
      frmChecksum := t.frmChecksum
      calcReg := t.calcReg
      rxbuf := t.rxbuf
      written := { s.written with
        frmLength := t.written.frmLength
        frmChecksum := t.written.frmChecksum
        calcReg := t.written.calcReg }
      idx := t.idx
      phase := t.phase
      eng := t.eng
      txn := t.txn
      bytes := t.bytes
      callsLeft := t.callsLeft
      draws := t.draws
      trace := t.trace }

/-- The data registers change only in CLASSIFY, on a SUCCESS of their own operation: `INFO.*` by INFO, `RND` by RANDOM,
`SER` by SERIAL; SELFTEST and INIT write none (44_operations.md section 5; the spec's own D15). -/
def Obligations.DataRegistersChangeOnOwnSuccessOnly : Prop :=
  ∀ (i : Instr) (s t : State), exec i s = .next t →
    ((t.infoRfu = s.infoRfu ∧ t.infoDevid = s.infoDevid ∧ t.infoSilid = s.infoSilid ∧ t.infoRev = s.infoRev) ∨
      (i = .info ∧ s.phase = .classify ∧ t.resKind = .success)) ∧
    (t.rnd = s.rnd ∨ ((∃ n, i = .random n) ∧ s.phase = .classify ∧ t.resKind = .success)) ∧
    (t.ser = s.ser ∨ (i = .serial ∧ s.phase = .classify ∧ t.resKind = .success))

/-- CLASSIFY, for every operation and in every outcome, writes `RES`, `PHASE` and the operation's own data registers: only
INFO writes `INFO.*`, only RANDOM writes `RND`, at most its first `RANDOM_LEN` bytes, and only SERIAL writes `SER`, at most
bytes 0 to 15; every other register, `RXBUF`, and everything outside the framer is unchanged, and there is no event
(44_operations.md R132, 60_exceptions.md section 4). Which operation writes which data registers is the spec's own D15, the
16 bytes of `SER` its D16 (log entry 21). -/
def Obligations.ClassifyLeavesTheRest : Prop :=
  ∀ (i : Instr) (s t : State), s.phase = .classify → exec i s = .next t →
    t.phase = afterOf i ∧
    (i ≠ .info → t.infoRfu = s.infoRfu ∧ t.infoDevid = s.infoDevid ∧ t.infoSilid = s.infoSilid ∧ t.infoRev = s.infoRev ∧
      t.written = s.written) ∧
    ((∀ n, i ≠ .random n) → t.rnd = s.rnd) ∧
    (i ≠ .serial → t.ser = s.ser) ∧
    (∀ j, s.cfg.randomLen ≤ j → memRead t.rnd j = memRead s.rnd j) ∧
    (∀ j, 16 ≤ j → memRead t.ser j = memRead s.ser j) ∧
    t = { s with
      resKind := t.resKind
      resCode := t.resCode
      infoRfu := t.infoRfu
      infoDevid := t.infoDevid
      infoSilid := t.infoSilid
      infoRev := t.infoRev
      written := { s.written with info := t.written.info }
      rnd := t.rnd
      ser := t.ser
      phase := t.phase }

/-! ### Host reads -/

/-- The host reads `BUSY` at any time and nothing else while `BUSY = 1`; `PHASE` and `IDX` never (10_state.md section 7,
the spec's own D27). That the bit is delivered in a 16-bit word is the model's choice (log entry 30). -/
def Obligations.HostReadsWhileBusyAreRefused : Prop :=
  ∀ (s : State) (r : HostReg),
    hostRead .busy s = .ok (if s.busy = true then 1#16 else 0#16) ∧
    (s.busy = true → r ≠ .busy → hostRead r s = .error .readWhileBusy) ∧
    (s.busy = false → hostRead .phase s = .error .notHostReadable ∧ hostRead .idx s = .error .notHostReadable)

/-- While `BUSY = 0` the host reads `RES.KIND` as its code, 0 NONE, 1 SUCCESS, 2 STATUS, 3 BUS_ERROR, 4 OTHER_ERROR,
5 INIT_FAIL, 6 REJECTED, and `RES.CODE` unless the kind is NONE or REJECTED, when the code is unspecified
(30_encoding.md section 5; the spec's own D4). An unspecified code reads as a free value of its width, where the spec asks a
model to refuse (log entry 31). That values are delivered zero-extended to 16 bits is the model's choice (log entry 30). -/
def Obligations.HostReadsTheOutcome : Prop :=
  ∀ s : State, s.busy = false →
    (s.resKind = .none → hostRead .resKind s = .ok 0#16) ∧
    (s.resKind = .success → hostRead .resKind s = .ok 1#16) ∧
    (s.resKind = .status → hostRead .resKind s = .ok 2#16) ∧
    (s.resKind = .busError → hostRead .resKind s = .ok 3#16) ∧
    (s.resKind = .otherError → hostRead .resKind s = .ok 4#16) ∧
    (s.resKind = .initFail → hostRead .resKind s = .ok 5#16) ∧
    (s.resKind = .rejected → hostRead .resKind s = .ok 6#16) ∧
    hostRead .resCode s =
      .ok ((if s.resKind = .none ∨ s.resKind = .rejected
        then (Config.unspecified 14 s.draws s.trace.length).setWidth 8 else s.resCode).setWidth 16)

/-- While `BUSY = 0` the host reads `CMD` and `FRM.VALID` always, and the packet registers, `TXFILL`, the frame descriptor,
`CALC` and the Device Info registers as they stand once a step has written them (their mark in `written`, log entry 12)
(10_state.md sections 7 and 10; the spec's own D1, D21, D27; log entry 25). Before that each reads as a free value of its
width, where the spec asks a model to refuse (log entry 31). That a narrower value is delivered zero-extended to 16 bits is
the model's choice (log entry 30). -/
def Obligations.HostReadsTheRegisters : Prop :=
  ∀ s : State, s.busy = false →
    let free := fun n => Config.unspecified n s.draws s.trace.length
    let free8 := fun n => ((free n).setWidth 8).setWidth 16
    hostRead .cmd s = .ok s.cmd ∧
    hostRead .frmValid s = .ok (if s.frmValid = true then 1#16 else 0#16) ∧
    (if s.written.packet = true
      then hostRead .pktCount s = .ok (s.pktCount.setWidth 16) ∧ hostRead .pktOpcode s = .ok (s.pktOpcode.setWidth 16) ∧
        hostRead .pktParam1 s = .ok (s.pktParam1.setWidth 16) ∧ hostRead .pktParam2 s = .ok s.pktParam2 ∧
        hostRead .txfill s = .ok (s.txfill.setWidth 16)
      else hostRead .pktCount s = .ok (free8 2) ∧ hostRead .pktOpcode s = .ok (free8 3) ∧
        hostRead .pktParam1 s = .ok (free8 4) ∧ hostRead .pktParam2 s = .ok (free 5) ∧
        hostRead .txfill s = .ok (free8 7)) ∧
    hostRead .pktChecksum s = .ok (if s.written.pktChecksum = true then s.pktChecksum else free 6) ∧
    hostRead .frmLength s = .ok (if s.written.frmLength = true then s.frmLength.setWidth 16 else free8 8) ∧
    hostRead .frmChecksum s = .ok (if s.written.frmChecksum = true then s.frmChecksum else free 10) ∧
    hostRead .calcReg s = .ok (if s.written.calcReg = true then s.calcReg else free 11) ∧
    (if s.written.info = true
      then hostRead .infoRfu s = .ok (s.infoRfu.setWidth 16) ∧ hostRead .infoDevid s = .ok (s.infoDevid.setWidth 16) ∧
        hostRead .infoSilid s = .ok (s.infoSilid.setWidth 16) ∧ hostRead .infoRev s = .ok (s.infoRev.setWidth 16)
      else hostRead .infoRfu s = .ok (free8 15) ∧ hostRead .infoDevid s = .ok (free8 16) ∧
        hostRead .infoSilid s = .ok (free8 17) ∧ hostRead .infoRev s = .ok (free8 18))

/-- While `BUSY = 0` the host reads a byte of `RXBUF` (`RXBUF_SIZE` bytes), `RND` (`RANDOM_LEN` bytes) or `SER`
(16 bytes, D16) once a step has written it, and an index outside the register file names no register (10_state.md
sections 4, 5, 7 and 10; log entry 25). A byte that no step has written reads as a free value, where the spec asks a model to
refuse (log entries 11 and 31). That a byte is delivered zero-extended to 16 bits is the model's choice (log entry 30). -/
def Obligations.HostReadsTheBuffers : Prop :=
  ∀ (s : State) (j : Nat), s.busy = false →
    (s.cfg.rxbufSize ≤ j → hostRead (.rxbuf j) s = .error .noSuchRegister) ∧
    (s.cfg.randomLen ≤ j → hostRead (.rnd j) s = .error .noSuchRegister) ∧
    (16 ≤ j → hostRead (.ser j) s = .error .noSuchRegister) ∧
    (j < s.cfg.rxbufSize → hostRead (.rxbuf j) s =
      match memRead s.rxbuf j with
      | some b => .ok (b.setWidth 16)
      | none => .ok ((Config.unwritten .rxbuf j).setWidth 16)) ∧
    (j < s.cfg.randomLen → hostRead (.rnd j) s =
      match memRead s.rnd j with
      | some b => .ok (b.setWidth 16)
      | none => .ok ((Config.unwritten .rnd j).setWidth 16)) ∧
    (j < 16 → hostRead (.ser j) s =
      match memRead s.ser j with
      | some b => .ok (b.setWidth 16)
      | none => .ok ((Config.unwritten .ser j).setWidth 16))

/-- The register numbers 0 to 22 name the registers of 10_state.md section 7, a register file with its index, and no other
number names one (the spec's own D1; refusal log entry 25). -/
def Obligations.HostRegisterNumbers : Prop :=
  ∀ (s : State) (j : Nat),
    [0, 1, 2, 3, 4, 5, 6, 7, 8, 9, 10, 11].map (fun n => hostReadNumber n j s) =
      [HostReg.cmd, .busy, .pktCount, .pktOpcode, .pktParam1, .pktParam2, .pktChecksum, .txfill, .frmLength, .frmValid,
        .frmChecksum, .calcReg].map (fun r => hostRead r s) ∧
    hostReadNumber 12 j s = hostRead (.rxbuf j) s ∧
    [13, 14, 15, 16, 17, 18].map (fun n => hostReadNumber n j s) =
      [HostReg.resKind, .resCode, .infoRfu, .infoDevid, .infoSilid, .infoRev].map (fun r => hostRead r s) ∧
    hostReadNumber 19 j s = hostRead (.rnd j) s ∧ hostReadNumber 20 j s = hostRead (.ser j) s ∧
    hostReadNumber 21 j s = hostRead .phase s ∧ hostReadNumber 22 j s = hostRead .idx s ∧
    ∀ n, 23 ≤ n → hostReadNumber n j s = .error .noSuchRegister

/-! ### The configuration -/

/-- The reset configuration has the document's value for each parameter of 00_scope.md section 4 that has one (log entries
2 and 28: `DEV_ADDR` as a 7-bit address, `CRC_SEED` as 0xFFFF, the spec's own D7), 252 for `RXBUF_SIZE` (the
spec's own D14, log entry 18), and its frame lengths leave room for what
CLASSIFY reads. -/
def Obligations.ConfigurationHasTheDocumentsLiterals : Prop :=
  let c := State.reset.cfg
  c.devAddr = 0x40#7 ∧ c.overhead = 7#8 ∧ c.frameStd = 4#8 ∧ c.frameInfo = 7#8 ∧ c.frameSerial = 19#8 ∧
    c.frameRandom = 35#8 ∧ c.randomLen = 32 ∧ c.tSelftest = 32 ∧ c.tRandom = 75 ∧ c.tInfo = 1 ∧ c.tSerial = 1 ∧
    c.rxbufSize = 252 ∧ c.crcPoly = 0x8005#16 ∧ c.crcSeed = 0xFFFF#16 ∧ c.stSuccess = 0x00#8 ∧ c.selftestPass = 0x00#8 ∧ FramesFit c

/-! ### A payload longer than the receive buffer -/

/-- The rows that use `RXBUF[IDX]`, of every operation, fault where the receive buffer has no such byte: `RX_PAY_RD` once its
read has returned, `RX_PAY_UPD` at once (93_implementation_defined.md U4: `fault` when `m > RXBUF_SIZE`). With the 252 bytes of
the spec's own D14 no run reaches it; that the fault stands at the first byte without a place is the model's choice (log
entry 18). -/
def Obligations.PayloadBeyondTheBufferFaults : Prop :=
  ∀ (i : Instr) (s : State), s.cfg.rxbufSize ≤ s.idx.toNat →
    (s.phase = .rxPayRd → s.callsLeft ≠ some 0 → exec i s = .fault .rxbufIndex) ∧
    (s.phase = .rxPayUpd → exec i s = .fault .rxbufIndex)
end

