-- ==== Sys2Proof/Laws/State.lean ====
section
/-! SUPPORT. What each update leaves in each field of the state: one lemma per field per update, so that no proof
unfolds a record update. -/

namespace Sys2Proof.Machine

variable (s : State)

/-! ### goto -/

@[simp] theorem goto_cmd (p : Phase) : (goto p s).cmd = s.cmd := rfl
@[simp] theorem goto_busy (p : Phase) : (goto p s).busy = s.busy := rfl
@[simp] theorem goto_pktCount (p : Phase) : (goto p s).pktCount = s.pktCount := rfl
@[simp] theorem goto_pktOpcode (p : Phase) : (goto p s).pktOpcode = s.pktOpcode := rfl
@[simp] theorem goto_pktParam1 (p : Phase) : (goto p s).pktParam1 = s.pktParam1 := rfl
@[simp] theorem goto_pktParam2 (p : Phase) : (goto p s).pktParam2 = s.pktParam2 := rfl
@[simp] theorem goto_pktChecksum (p : Phase) : (goto p s).pktChecksum = s.pktChecksum := rfl
@[simp] theorem goto_txfill (p : Phase) : (goto p s).txfill = s.txfill := rfl
@[simp] theorem goto_frmLength (p : Phase) : (goto p s).frmLength = s.frmLength := rfl
@[simp] theorem goto_frmValid (p : Phase) : (goto p s).frmValid = s.frmValid := rfl
@[simp] theorem goto_frmChecksum (p : Phase) : (goto p s).frmChecksum = s.frmChecksum := rfl
@[simp] theorem goto_calcReg (p : Phase) : (goto p s).calcReg = s.calcReg := rfl
@[simp] theorem goto_rxbuf (p : Phase) : (goto p s).rxbuf = s.rxbuf := rfl
@[simp] theorem goto_resKind (p : Phase) : (goto p s).resKind = s.resKind := rfl
@[simp] theorem goto_resCode (p : Phase) : (goto p s).resCode = s.resCode := rfl
@[simp] theorem goto_infoRfu (p : Phase) : (goto p s).infoRfu = s.infoRfu := rfl
@[simp] theorem goto_infoDevid (p : Phase) : (goto p s).infoDevid = s.infoDevid := rfl
@[simp] theorem goto_infoSilid (p : Phase) : (goto p s).infoSilid = s.infoSilid := rfl
@[simp] theorem goto_infoRev (p : Phase) : (goto p s).infoRev = s.infoRev := rfl
@[simp] theorem goto_rnd (p : Phase) : (goto p s).rnd = s.rnd := rfl
@[simp] theorem goto_ser (p : Phase) : (goto p s).ser = s.ser := rfl
@[simp] theorem goto_phase (p : Phase) : (goto p s).phase = p := rfl
@[simp] theorem goto_idx (p : Phase) : (goto p s).idx = s.idx := rfl
@[simp] theorem goto_eng (p : Phase) : (goto p s).eng = s.eng := rfl
@[simp] theorem goto_txn (p : Phase) : (goto p s).txn = s.txn := rfl
@[simp] theorem goto_written (p : Phase) : (goto p s).written = s.written := rfl
@[simp] theorem goto_program (p : Phase) : (goto p s).program = s.program := rfl
@[simp] theorem goto_acks (p : Phase) : (goto p s).acks = s.acks := rfl
@[simp] theorem goto_bytes (p : Phase) : (goto p s).bytes = s.bytes := rfl
@[simp] theorem goto_callsLeft (p : Phase) : (goto p s).callsLeft = s.callsLeft := rfl
@[simp] theorem goto_draws (p : Phase) : (goto p s).draws = s.draws := rfl
@[simp] theorem goto_trace (p : Phase) : (goto p s).trace = s.trace := rfl
@[simp] theorem goto_cfg (p : Phase) : (goto p s).cfg = s.cfg := rfl

/-! ### setIdx -/

@[simp] theorem setIdx_cmd (v : Byte) : (setIdx v s).cmd = s.cmd := rfl
@[simp] theorem setIdx_busy (v : Byte) : (setIdx v s).busy = s.busy := rfl
@[simp] theorem setIdx_pktCount (v : Byte) : (setIdx v s).pktCount = s.pktCount := rfl
@[simp] theorem setIdx_pktOpcode (v : Byte) : (setIdx v s).pktOpcode = s.pktOpcode := rfl
@[simp] theorem setIdx_pktParam1 (v : Byte) : (setIdx v s).pktParam1 = s.pktParam1 := rfl
@[simp] theorem setIdx_pktParam2 (v : Byte) : (setIdx v s).pktParam2 = s.pktParam2 := rfl
@[simp] theorem setIdx_pktChecksum (v : Byte) : (setIdx v s).pktChecksum = s.pktChecksum := rfl
@[simp] theorem setIdx_txfill (v : Byte) : (setIdx v s).txfill = s.txfill := rfl
@[simp] theorem setIdx_frmLength (v : Byte) : (setIdx v s).frmLength = s.frmLength := rfl
@[simp] theorem setIdx_frmValid (v : Byte) : (setIdx v s).frmValid = s.frmValid := rfl
@[simp] theorem setIdx_frmChecksum (v : Byte) : (setIdx v s).frmChecksum = s.frmChecksum := rfl
@[simp] theorem setIdx_calcReg (v : Byte) : (setIdx v s).calcReg = s.calcReg := rfl
@[simp] theorem setIdx_rxbuf (v : Byte) : (setIdx v s).rxbuf = s.rxbuf := rfl
@[simp] theorem setIdx_resKind (v : Byte) : (setIdx v s).resKind = s.resKind := rfl
@[simp] theorem setIdx_resCode (v : Byte) : (setIdx v s).resCode = s.resCode := rfl
@[simp] theorem setIdx_infoRfu (v : Byte) : (setIdx v s).infoRfu = s.infoRfu := rfl
@[simp] theorem setIdx_infoDevid (v : Byte) : (setIdx v s).infoDevid = s.infoDevid := rfl
@[simp] theorem setIdx_infoSilid (v : Byte) : (setIdx v s).infoSilid = s.infoSilid := rfl
@[simp] theorem setIdx_infoRev (v : Byte) : (setIdx v s).infoRev = s.infoRev := rfl
@[simp] theorem setIdx_rnd (v : Byte) : (setIdx v s).rnd = s.rnd := rfl
@[simp] theorem setIdx_ser (v : Byte) : (setIdx v s).ser = s.ser := rfl
@[simp] theorem setIdx_phase (v : Byte) : (setIdx v s).phase = s.phase := rfl
@[simp] theorem setIdx_idx (v : Byte) : (setIdx v s).idx = v := rfl
@[simp] theorem setIdx_eng (v : Byte) : (setIdx v s).eng = s.eng := rfl
@[simp] theorem setIdx_txn (v : Byte) : (setIdx v s).txn = s.txn := rfl
@[simp] theorem setIdx_written (v : Byte) : (setIdx v s).written = s.written := rfl
@[simp] theorem setIdx_program (v : Byte) : (setIdx v s).program = s.program := rfl
@[simp] theorem setIdx_acks (v : Byte) : (setIdx v s).acks = s.acks := rfl
@[simp] theorem setIdx_bytes (v : Byte) : (setIdx v s).bytes = s.bytes := rfl
@[simp] theorem setIdx_callsLeft (v : Byte) : (setIdx v s).callsLeft = s.callsLeft := rfl
@[simp] theorem setIdx_draws (v : Byte) : (setIdx v s).draws = s.draws := rfl
@[simp] theorem setIdx_trace (v : Byte) : (setIdx v s).trace = s.trace := rfl
@[simp] theorem setIdx_cfg (v : Byte) : (setIdx v s).cfg = s.cfg := rfl

/-! ### setProgram -/

@[simp] theorem setProgram_cmd (ws : List Word) : (setProgram ws s).cmd = s.cmd := rfl
@[simp] theorem setProgram_busy (ws : List Word) : (setProgram ws s).busy = s.busy := rfl
@[simp] theorem setProgram_pktCount (ws : List Word) : (setProgram ws s).pktCount = s.pktCount := rfl
@[simp] theorem setProgram_pktOpcode (ws : List Word) : (setProgram ws s).pktOpcode = s.pktOpcode := rfl
@[simp] theorem setProgram_pktParam1 (ws : List Word) : (setProgram ws s).pktParam1 = s.pktParam1 := rfl
@[simp] theorem setProgram_pktParam2 (ws : List Word) : (setProgram ws s).pktParam2 = s.pktParam2 := rfl
@[simp] theorem setProgram_pktChecksum (ws : List Word) : (setProgram ws s).pktChecksum = s.pktChecksum := rfl
@[simp] theorem setProgram_txfill (ws : List Word) : (setProgram ws s).txfill = s.txfill := rfl
@[simp] theorem setProgram_frmLength (ws : List Word) : (setProgram ws s).frmLength = s.frmLength := rfl
@[simp] theorem setProgram_frmValid (ws : List Word) : (setProgram ws s).frmValid = s.frmValid := rfl
@[simp] theorem setProgram_frmChecksum (ws : List Word) : (setProgram ws s).frmChecksum = s.frmChecksum := rfl
@[simp] theorem setProgram_calcReg (ws : List Word) : (setProgram ws s).calcReg = s.calcReg := rfl
@[simp] theorem setProgram_rxbuf (ws : List Word) : (setProgram ws s).rxbuf = s.rxbuf := rfl
@[simp] theorem setProgram_resKind (ws : List Word) : (setProgram ws s).resKind = s.resKind := rfl
@[simp] theorem setProgram_resCode (ws : List Word) : (setProgram ws s).resCode = s.resCode := rfl
@[simp] theorem setProgram_infoRfu (ws : List Word) : (setProgram ws s).infoRfu = s.infoRfu := rfl
@[simp] theorem setProgram_infoDevid (ws : List Word) : (setProgram ws s).infoDevid = s.infoDevid := rfl
@[simp] theorem setProgram_infoSilid (ws : List Word) : (setProgram ws s).infoSilid = s.infoSilid := rfl
@[simp] theorem setProgram_infoRev (ws : List Word) : (setProgram ws s).infoRev = s.infoRev := rfl
@[simp] theorem setProgram_rnd (ws : List Word) : (setProgram ws s).rnd = s.rnd := rfl
@[simp] theorem setProgram_ser (ws : List Word) : (setProgram ws s).ser = s.ser := rfl
@[simp] theorem setProgram_phase (ws : List Word) : (setProgram ws s).phase = s.phase := rfl
@[simp] theorem setProgram_idx (ws : List Word) : (setProgram ws s).idx = s.idx := rfl
@[simp] theorem setProgram_eng (ws : List Word) : (setProgram ws s).eng = s.eng := rfl
@[simp] theorem setProgram_txn (ws : List Word) : (setProgram ws s).txn = s.txn := rfl
@[simp] theorem setProgram_written (ws : List Word) : (setProgram ws s).written = s.written := rfl
@[simp] theorem setProgram_program (ws : List Word) : (setProgram ws s).program = ws := rfl
@[simp] theorem setProgram_acks (ws : List Word) : (setProgram ws s).acks = s.acks := rfl
@[simp] theorem setProgram_bytes (ws : List Word) : (setProgram ws s).bytes = s.bytes := rfl
@[simp] theorem setProgram_callsLeft (ws : List Word) : (setProgram ws s).callsLeft = s.callsLeft := rfl
@[simp] theorem setProgram_draws (ws : List Word) : (setProgram ws s).draws = s.draws := rfl
@[simp] theorem setProgram_trace (ws : List Word) : (setProgram ws s).trace = s.trace := rfl
@[simp] theorem setProgram_cfg (ws : List Word) : (setProgram ws s).cfg = s.cfg := rfl

/-! ### called -/

@[simp] theorem called_cmd : (called s).cmd = s.cmd := rfl
@[simp] theorem called_busy : (called s).busy = s.busy := rfl
@[simp] theorem called_pktCount : (called s).pktCount = s.pktCount := rfl
@[simp] theorem called_pktOpcode : (called s).pktOpcode = s.pktOpcode := rfl
@[simp] theorem called_pktParam1 : (called s).pktParam1 = s.pktParam1 := rfl
@[simp] theorem called_pktParam2 : (called s).pktParam2 = s.pktParam2 := rfl
@[simp] theorem called_pktChecksum : (called s).pktChecksum = s.pktChecksum := rfl
@[simp] theorem called_txfill : (called s).txfill = s.txfill := rfl
@[simp] theorem called_frmLength : (called s).frmLength = s.frmLength := rfl
@[simp] theorem called_frmValid : (called s).frmValid = s.frmValid := rfl
@[simp] theorem called_frmChecksum : (called s).frmChecksum = s.frmChecksum := rfl
@[simp] theorem called_calcReg : (called s).calcReg = s.calcReg := rfl
@[simp] theorem called_rxbuf : (called s).rxbuf = s.rxbuf := rfl
@[simp] theorem called_resKind : (called s).resKind = s.resKind := rfl
@[simp] theorem called_resCode : (called s).resCode = s.resCode := rfl
@[simp] theorem called_infoRfu : (called s).infoRfu = s.infoRfu := rfl
@[simp] theorem called_infoDevid : (called s).infoDevid = s.infoDevid := rfl
@[simp] theorem called_infoSilid : (called s).infoSilid = s.infoSilid := rfl
@[simp] theorem called_infoRev : (called s).infoRev = s.infoRev := rfl
@[simp] theorem called_rnd : (called s).rnd = s.rnd := rfl
@[simp] theorem called_ser : (called s).ser = s.ser := rfl
@[simp] theorem called_phase : (called s).phase = s.phase := rfl
@[simp] theorem called_idx : (called s).idx = s.idx := rfl
@[simp] theorem called_eng : (called s).eng = s.eng := rfl
@[simp] theorem called_txn : (called s).txn = s.txn := rfl
@[simp] theorem called_written : (called s).written = s.written := rfl
@[simp] theorem called_program : (called s).program = s.program := rfl
@[simp] theorem called_acks : (called s).acks = s.acks := rfl
@[simp] theorem called_bytes : (called s).bytes = s.bytes := rfl
@[simp] theorem called_callsLeft : (called s).callsLeft = s.callsLeft.map (· - 1) := rfl
@[simp] theorem called_draws : (called s).draws = s.draws := rfl
@[simp] theorem called_trace : (called s).trace = s.trace := rfl
@[simp] theorem called_cfg : (called s).cfg = s.cfg := rfl

/-! ### emit -/

@[simp] theorem emit_cmd (e : Event) : (emit e s).cmd = s.cmd := rfl
@[simp] theorem emit_busy (e : Event) : (emit e s).busy = s.busy := rfl
@[simp] theorem emit_pktCount (e : Event) : (emit e s).pktCount = s.pktCount := rfl
@[simp] theorem emit_pktOpcode (e : Event) : (emit e s).pktOpcode = s.pktOpcode := rfl
@[simp] theorem emit_pktParam1 (e : Event) : (emit e s).pktParam1 = s.pktParam1 := rfl
@[simp] theorem emit_pktParam2 (e : Event) : (emit e s).pktParam2 = s.pktParam2 := rfl
@[simp] theorem emit_pktChecksum (e : Event) : (emit e s).pktChecksum = s.pktChecksum := rfl
@[simp] theorem emit_txfill (e : Event) : (emit e s).txfill = s.txfill := rfl
@[simp] theorem emit_frmLength (e : Event) : (emit e s).frmLength = s.frmLength := rfl
@[simp] theorem emit_frmValid (e : Event) : (emit e s).frmValid = s.frmValid := rfl
@[simp] theorem emit_frmChecksum (e : Event) : (emit e s).frmChecksum = s.frmChecksum := rfl
@[simp] theorem emit_calcReg (e : Event) : (emit e s).calcReg = s.calcReg := rfl
@[simp] theorem emit_rxbuf (e : Event) : (emit e s).rxbuf = s.rxbuf := rfl
@[simp] theorem emit_resKind (e : Event) : (emit e s).resKind = s.resKind := rfl
@[simp] theorem emit_resCode (e : Event) : (emit e s).resCode = s.resCode := rfl
@[simp] theorem emit_infoRfu (e : Event) : (emit e s).infoRfu = s.infoRfu := rfl
@[simp] theorem emit_infoDevid (e : Event) : (emit e s).infoDevid = s.infoDevid := rfl
@[simp] theorem emit_infoSilid (e : Event) : (emit e s).infoSilid = s.infoSilid := rfl
@[simp] theorem emit_infoRev (e : Event) : (emit e s).infoRev = s.infoRev := rfl
@[simp] theorem emit_rnd (e : Event) : (emit e s).rnd = s.rnd := rfl
@[simp] theorem emit_ser (e : Event) : (emit e s).ser = s.ser := rfl
@[simp] theorem emit_phase (e : Event) : (emit e s).phase = s.phase := rfl
@[simp] theorem emit_idx (e : Event) : (emit e s).idx = s.idx := rfl
@[simp] theorem emit_eng (e : Event) : (emit e s).eng = s.eng := rfl
@[simp] theorem emit_txn (e : Event) : (emit e s).txn = s.txn := rfl
@[simp] theorem emit_written (e : Event) : (emit e s).written = s.written := rfl
@[simp] theorem emit_program (e : Event) : (emit e s).program = s.program := rfl
@[simp] theorem emit_acks (e : Event) : (emit e s).acks = s.acks := rfl
@[simp] theorem emit_bytes (e : Event) : (emit e s).bytes = s.bytes := rfl
@[simp] theorem emit_callsLeft (e : Event) : (emit e s).callsLeft = s.callsLeft := rfl
@[simp] theorem emit_draws (e : Event) : (emit e s).draws = s.draws := rfl
@[simp] theorem emit_trace (e : Event) : (emit e s).trace = s.trace ++ [e] := rfl
@[simp] theorem emit_cfg (e : Event) : (emit e s).cfg = s.cfg := rfl

/-! ### setRes -/

@[simp] theorem setRes_cmd (k : ResKind) (c : Byte) : (setRes k c s).cmd = s.cmd := rfl
@[simp] theorem setRes_busy (k : ResKind) (c : Byte) : (setRes k c s).busy = s.busy := rfl
@[simp] theorem setRes_pktCount (k : ResKind) (c : Byte) : (setRes k c s).pktCount = s.pktCount := rfl
@[simp] theorem setRes_pktOpcode (k : ResKind) (c : Byte) : (setRes k c s).pktOpcode = s.pktOpcode := rfl
@[simp] theorem setRes_pktParam1 (k : ResKind) (c : Byte) : (setRes k c s).pktParam1 = s.pktParam1 := rfl
@[simp] theorem setRes_pktParam2 (k : ResKind) (c : Byte) : (setRes k c s).pktParam2 = s.pktParam2 := rfl
@[simp] theorem setRes_pktChecksum (k : ResKind) (c : Byte) : (setRes k c s).pktChecksum = s.pktChecksum := rfl
@[simp] theorem setRes_txfill (k : ResKind) (c : Byte) : (setRes k c s).txfill = s.txfill := rfl
@[simp] theorem setRes_frmLength (k : ResKind) (c : Byte) : (setRes k c s).frmLength = s.frmLength := rfl
@[simp] theorem setRes_frmValid (k : ResKind) (c : Byte) : (setRes k c s).frmValid = s.frmValid := rfl
@[simp] theorem setRes_frmChecksum (k : ResKind) (c : Byte) : (setRes k c s).frmChecksum = s.frmChecksum := rfl
@[simp] theorem setRes_calcReg (k : ResKind) (c : Byte) : (setRes k c s).calcReg = s.calcReg := rfl
@[simp] theorem setRes_rxbuf (k : ResKind) (c : Byte) : (setRes k c s).rxbuf = s.rxbuf := rfl
@[simp] theorem setRes_resKind (k : ResKind) (c : Byte) : (setRes k c s).resKind = k := rfl
@[simp] theorem setRes_resCode (k : ResKind) (c : Byte) : (setRes k c s).resCode = c := rfl
@[simp] theorem setRes_infoRfu (k : ResKind) (c : Byte) : (setRes k c s).infoRfu = s.infoRfu := rfl
@[simp] theorem setRes_infoDevid (k : ResKind) (c : Byte) : (setRes k c s).infoDevid = s.infoDevid := rfl
@[simp] theorem setRes_infoSilid (k : ResKind) (c : Byte) : (setRes k c s).infoSilid = s.infoSilid := rfl
@[simp] theorem setRes_infoRev (k : ResKind) (c : Byte) : (setRes k c s).infoRev = s.infoRev := rfl
@[simp] theorem setRes_rnd (k : ResKind) (c : Byte) : (setRes k c s).rnd = s.rnd := rfl
@[simp] theorem setRes_ser (k : ResKind) (c : Byte) : (setRes k c s).ser = s.ser := rfl
@[simp] theorem setRes_phase (k : ResKind) (c : Byte) : (setRes k c s).phase = s.phase := rfl
@[simp] theorem setRes_idx (k : ResKind) (c : Byte) : (setRes k c s).idx = s.idx := rfl
@[simp] theorem setRes_eng (k : ResKind) (c : Byte) : (setRes k c s).eng = s.eng := rfl
@[simp] theorem setRes_txn (k : ResKind) (c : Byte) : (setRes k c s).txn = s.txn := rfl
@[simp] theorem setRes_written (k : ResKind) (c : Byte) : (setRes k c s).written = s.written := rfl
@[simp] theorem setRes_program (k : ResKind) (c : Byte) : (setRes k c s).program = s.program := rfl
@[simp] theorem setRes_acks (k : ResKind) (c : Byte) : (setRes k c s).acks = s.acks := rfl
@[simp] theorem setRes_bytes (k : ResKind) (c : Byte) : (setRes k c s).bytes = s.bytes := rfl
@[simp] theorem setRes_callsLeft (k : ResKind) (c : Byte) : (setRes k c s).callsLeft = s.callsLeft := rfl
@[simp] theorem setRes_draws (k : ResKind) (c : Byte) : (setRes k c s).draws = s.draws := rfl
@[simp] theorem setRes_trace (k : ResKind) (c : Byte) : (setRes k c s).trace = s.trace := rfl
@[simp] theorem setRes_cfg (k : ResKind) (c : Byte) : (setRes k c s).cfg = s.cfg := rfl

/-! ### crcInit -/

@[simp] theorem crcInit_cmd : (crcInit s).cmd = s.cmd := rfl
@[simp] theorem crcInit_busy : (crcInit s).busy = s.busy := rfl
@[simp] theorem crcInit_pktCount : (crcInit s).pktCount = s.pktCount := rfl
@[simp] theorem crcInit_pktOpcode : (crcInit s).pktOpcode = s.pktOpcode := rfl
@[simp] theorem crcInit_pktParam1 : (crcInit s).pktParam1 = s.pktParam1 := rfl
@[simp] theorem crcInit_pktParam2 : (crcInit s).pktParam2 = s.pktParam2 := rfl
@[simp] theorem crcInit_pktChecksum : (crcInit s).pktChecksum = s.pktChecksum := rfl
@[simp] theorem crcInit_txfill : (crcInit s).txfill = s.txfill := rfl
@[simp] theorem crcInit_frmLength : (crcInit s).frmLength = s.frmLength := rfl
@[simp] theorem crcInit_frmValid : (crcInit s).frmValid = s.frmValid := rfl
@[simp] theorem crcInit_frmChecksum : (crcInit s).frmChecksum = s.frmChecksum := rfl
@[simp] theorem crcInit_calcReg : (crcInit s).calcReg = s.calcReg := rfl
@[simp] theorem crcInit_rxbuf : (crcInit s).rxbuf = s.rxbuf := rfl
@[simp] theorem crcInit_resKind : (crcInit s).resKind = s.resKind := rfl
@[simp] theorem crcInit_resCode : (crcInit s).resCode = s.resCode := rfl
@[simp] theorem crcInit_infoRfu : (crcInit s).infoRfu = s.infoRfu := rfl
@[simp] theorem crcInit_infoDevid : (crcInit s).infoDevid = s.infoDevid := rfl
@[simp] theorem crcInit_infoSilid : (crcInit s).infoSilid = s.infoSilid := rfl
@[simp] theorem crcInit_infoRev : (crcInit s).infoRev = s.infoRev := rfl
@[simp] theorem crcInit_rnd : (crcInit s).rnd = s.rnd := rfl
@[simp] theorem crcInit_ser : (crcInit s).ser = s.ser := rfl
@[simp] theorem crcInit_phase : (crcInit s).phase = s.phase := rfl
@[simp] theorem crcInit_idx : (crcInit s).idx = s.idx := rfl
@[simp] theorem crcInit_eng : (crcInit s).eng = engInit s.cfg.crcSeed := rfl
@[simp] theorem crcInit_txn : (crcInit s).txn = s.txn := rfl
@[simp] theorem crcInit_written : (crcInit s).written = s.written := rfl
@[simp] theorem crcInit_program : (crcInit s).program = s.program := rfl
@[simp] theorem crcInit_acks : (crcInit s).acks = s.acks := rfl
@[simp] theorem crcInit_bytes : (crcInit s).bytes = s.bytes := rfl
@[simp] theorem crcInit_callsLeft : (crcInit s).callsLeft = s.callsLeft := rfl
@[simp] theorem crcInit_draws : (crcInit s).draws = s.draws := rfl
@[simp] theorem crcInit_trace : (crcInit s).trace = s.trace ++ [.crcInit s.cfg.crcSeed] := rfl
@[simp] theorem crcInit_cfg : (crcInit s).cfg = s.cfg := rfl

/-! ### crcUpdate -/

@[simp] theorem crcUpdate_cmd (b : Byte) : (crcUpdate b s).cmd = s.cmd := rfl
@[simp] theorem crcUpdate_busy (b : Byte) : (crcUpdate b s).busy = s.busy := rfl
@[simp] theorem crcUpdate_pktCount (b : Byte) : (crcUpdate b s).pktCount = s.pktCount := rfl
@[simp] theorem crcUpdate_pktOpcode (b : Byte) : (crcUpdate b s).pktOpcode = s.pktOpcode := rfl
@[simp] theorem crcUpdate_pktParam1 (b : Byte) : (crcUpdate b s).pktParam1 = s.pktParam1 := rfl
@[simp] theorem crcUpdate_pktParam2 (b : Byte) : (crcUpdate b s).pktParam2 = s.pktParam2 := rfl
@[simp] theorem crcUpdate_pktChecksum (b : Byte) : (crcUpdate b s).pktChecksum = s.pktChecksum := rfl
@[simp] theorem crcUpdate_txfill (b : Byte) : (crcUpdate b s).txfill = s.txfill := rfl
@[simp] theorem crcUpdate_frmLength (b : Byte) : (crcUpdate b s).frmLength = s.frmLength := rfl
@[simp] theorem crcUpdate_frmValid (b : Byte) : (crcUpdate b s).frmValid = s.frmValid := rfl
@[simp] theorem crcUpdate_frmChecksum (b : Byte) : (crcUpdate b s).frmChecksum = s.frmChecksum := rfl
@[simp] theorem crcUpdate_calcReg (b : Byte) : (crcUpdate b s).calcReg = s.calcReg := rfl
@[simp] theorem crcUpdate_rxbuf (b : Byte) : (crcUpdate b s).rxbuf = s.rxbuf := rfl
@[simp] theorem crcUpdate_resKind (b : Byte) : (crcUpdate b s).resKind = s.resKind := rfl
@[simp] theorem crcUpdate_resCode (b : Byte) : (crcUpdate b s).resCode = s.resCode := rfl
@[simp] theorem crcUpdate_infoRfu (b : Byte) : (crcUpdate b s).infoRfu = s.infoRfu := rfl
@[simp] theorem crcUpdate_infoDevid (b : Byte) : (crcUpdate b s).infoDevid = s.infoDevid := rfl
@[simp] theorem crcUpdate_infoSilid (b : Byte) : (crcUpdate b s).infoSilid = s.infoSilid := rfl
@[simp] theorem crcUpdate_infoRev (b : Byte) : (crcUpdate b s).infoRev = s.infoRev := rfl
@[simp] theorem crcUpdate_rnd (b : Byte) : (crcUpdate b s).rnd = s.rnd := rfl
@[simp] theorem crcUpdate_ser (b : Byte) : (crcUpdate b s).ser = s.ser := rfl
@[simp] theorem crcUpdate_phase (b : Byte) : (crcUpdate b s).phase = s.phase := rfl
@[simp] theorem crcUpdate_idx (b : Byte) : (crcUpdate b s).idx = s.idx := rfl
@[simp] theorem crcUpdate_eng (b : Byte) : (crcUpdate b s).eng = engUpdate s.eng b := rfl
@[simp] theorem crcUpdate_txn (b : Byte) : (crcUpdate b s).txn = s.txn := rfl
@[simp] theorem crcUpdate_written (b : Byte) : (crcUpdate b s).written = s.written := rfl
@[simp] theorem crcUpdate_program (b : Byte) : (crcUpdate b s).program = s.program := rfl
@[simp] theorem crcUpdate_acks (b : Byte) : (crcUpdate b s).acks = s.acks := rfl
@[simp] theorem crcUpdate_bytes (b : Byte) : (crcUpdate b s).bytes = s.bytes := rfl
@[simp] theorem crcUpdate_callsLeft (b : Byte) : (crcUpdate b s).callsLeft = s.callsLeft := rfl
@[simp] theorem crcUpdate_draws (b : Byte) : (crcUpdate b s).draws = s.draws := rfl
@[simp] theorem crcUpdate_trace (b : Byte) : (crcUpdate b s).trace = s.trace ++ [.crcUpdate b] := rfl
@[simp] theorem crcUpdate_cfg (b : Byte) : (crcUpdate b s).cfg = s.cfg := rfl

/-! ### crcResult -/

@[simp] theorem crcResult_cmd : (crcResult s).cmd = s.cmd := rfl
@[simp] theorem crcResult_busy : (crcResult s).busy = s.busy := rfl
@[simp] theorem crcResult_pktCount : (crcResult s).pktCount = s.pktCount := rfl
@[simp] theorem crcResult_pktOpcode : (crcResult s).pktOpcode = s.pktOpcode := rfl
@[simp] theorem crcResult_pktParam1 : (crcResult s).pktParam1 = s.pktParam1 := rfl
@[simp] theorem crcResult_pktParam2 : (crcResult s).pktParam2 = s.pktParam2 := rfl
@[simp] theorem crcResult_pktChecksum : (crcResult s).pktChecksum = s.pktChecksum := rfl
@[simp] theorem crcResult_txfill : (crcResult s).txfill = s.txfill := rfl
@[simp] theorem crcResult_frmLength : (crcResult s).frmLength = s.frmLength := rfl
@[simp] theorem crcResult_frmValid : (crcResult s).frmValid = s.frmValid := rfl
@[simp] theorem crcResult_frmChecksum : (crcResult s).frmChecksum = s.frmChecksum := rfl
@[simp] theorem crcResult_calcReg : (crcResult s).calcReg = s.calcReg := rfl
@[simp] theorem crcResult_rxbuf : (crcResult s).rxbuf = s.rxbuf := rfl
@[simp] theorem crcResult_resKind : (crcResult s).resKind = s.resKind := rfl
@[simp] theorem crcResult_resCode : (crcResult s).resCode = s.resCode := rfl
@[simp] theorem crcResult_infoRfu : (crcResult s).infoRfu = s.infoRfu := rfl
@[simp] theorem crcResult_infoDevid : (crcResult s).infoDevid = s.infoDevid := rfl
@[simp] theorem crcResult_infoSilid : (crcResult s).infoSilid = s.infoSilid := rfl
@[simp] theorem crcResult_infoRev : (crcResult s).infoRev = s.infoRev := rfl
@[simp] theorem crcResult_rnd : (crcResult s).rnd = s.rnd := rfl
@[simp] theorem crcResult_ser : (crcResult s).ser = s.ser := rfl
@[simp] theorem crcResult_phase : (crcResult s).phase = s.phase := rfl
@[simp] theorem crcResult_idx : (crcResult s).idx = s.idx := rfl
@[simp] theorem crcResult_eng : (crcResult s).eng = s.eng := rfl
@[simp] theorem crcResult_txn : (crcResult s).txn = s.txn := rfl
@[simp] theorem crcResult_written : (crcResult s).written = s.written := rfl
@[simp] theorem crcResult_program : (crcResult s).program = s.program := rfl
@[simp] theorem crcResult_acks : (crcResult s).acks = s.acks := rfl
@[simp] theorem crcResult_bytes : (crcResult s).bytes = s.bytes := rfl
@[simp] theorem crcResult_callsLeft : (crcResult s).callsLeft = s.callsLeft := rfl
@[simp] theorem crcResult_draws : (crcResult s).draws = s.draws := rfl
@[simp] theorem crcResult_trace : (crcResult s).trace = s.trace ++ [.crcResult (crcValue s)] := rfl
@[simp] theorem crcResult_cfg : (crcResult s).cfg = s.cfg := rfl

/-! ### busStart -/

@[simp] theorem busStart_cmd : (busStart s).cmd = s.cmd := rfl
@[simp] theorem busStart_busy : (busStart s).busy = s.busy := rfl
@[simp] theorem busStart_pktCount : (busStart s).pktCount = s.pktCount := rfl
@[simp] theorem busStart_pktOpcode : (busStart s).pktOpcode = s.pktOpcode := rfl
@[simp] theorem busStart_pktParam1 : (busStart s).pktParam1 = s.pktParam1 := rfl
@[simp] theorem busStart_pktParam2 : (busStart s).pktParam2 = s.pktParam2 := rfl
@[simp] theorem busStart_pktChecksum : (busStart s).pktChecksum = s.pktChecksum := rfl
@[simp] theorem busStart_txfill : (busStart s).txfill = s.txfill := rfl
@[simp] theorem busStart_frmLength : (busStart s).frmLength = s.frmLength := rfl
@[simp] theorem busStart_frmValid : (busStart s).frmValid = s.frmValid := rfl
@[simp] theorem busStart_frmChecksum : (busStart s).frmChecksum = s.frmChecksum := rfl
@[simp] theorem busStart_calcReg : (busStart s).calcReg = s.calcReg := rfl
@[simp] theorem busStart_rxbuf : (busStart s).rxbuf = s.rxbuf := rfl
@[simp] theorem busStart_resKind : (busStart s).resKind = s.resKind := rfl
@[simp] theorem busStart_resCode : (busStart s).resCode = s.resCode := rfl
@[simp] theorem busStart_infoRfu : (busStart s).infoRfu = s.infoRfu := rfl
@[simp] theorem busStart_infoDevid : (busStart s).infoDevid = s.infoDevid := rfl
@[simp] theorem busStart_infoSilid : (busStart s).infoSilid = s.infoSilid := rfl
@[simp] theorem busStart_infoRev : (busStart s).infoRev = s.infoRev := rfl
@[simp] theorem busStart_rnd : (busStart s).rnd = s.rnd := rfl
@[simp] theorem busStart_ser : (busStart s).ser = s.ser := rfl
@[simp] theorem busStart_phase : (busStart s).phase = s.phase := rfl
@[simp] theorem busStart_idx : (busStart s).idx = s.idx := rfl
@[simp] theorem busStart_eng : (busStart s).eng = s.eng := rfl
@[simp] theorem busStart_txn : (busStart s).txn = Config.freeTxn s.draws := rfl
@[simp] theorem busStart_written : (busStart s).written = s.written := rfl
@[simp] theorem busStart_program : (busStart s).program = s.program := rfl
@[simp] theorem busStart_acks : (busStart s).acks = s.acks := rfl
@[simp] theorem busStart_bytes : (busStart s).bytes = s.bytes := rfl
@[simp] theorem busStart_callsLeft : (busStart s).callsLeft = s.callsLeft := rfl
@[simp] theorem busStart_draws : (busStart s).draws = s.draws + 1 := rfl
@[simp] theorem busStart_trace : (busStart s).trace = s.trace ++ [.busStart] := rfl
@[simp] theorem busStart_cfg : (busStart s).cfg = s.cfg := rfl

/-! ### busAddress -/

@[simp] theorem busAddress_cmd (d : Dir) : (busAddress d s).cmd = s.cmd := rfl
@[simp] theorem busAddress_busy (d : Dir) : (busAddress d s).busy = s.busy := rfl
@[simp] theorem busAddress_pktCount (d : Dir) : (busAddress d s).pktCount = s.pktCount := rfl
@[simp] theorem busAddress_pktOpcode (d : Dir) : (busAddress d s).pktOpcode = s.pktOpcode := rfl
@[simp] theorem busAddress_pktParam1 (d : Dir) : (busAddress d s).pktParam1 = s.pktParam1 := rfl
@[simp] theorem busAddress_pktParam2 (d : Dir) : (busAddress d s).pktParam2 = s.pktParam2 := rfl
@[simp] theorem busAddress_pktChecksum (d : Dir) : (busAddress d s).pktChecksum = s.pktChecksum := rfl
@[simp] theorem busAddress_txfill (d : Dir) : (busAddress d s).txfill = s.txfill := rfl
@[simp] theorem busAddress_frmLength (d : Dir) : (busAddress d s).frmLength = s.frmLength := rfl
@[simp] theorem busAddress_frmValid (d : Dir) : (busAddress d s).frmValid = s.frmValid := rfl
@[simp] theorem busAddress_frmChecksum (d : Dir) : (busAddress d s).frmChecksum = s.frmChecksum := rfl
@[simp] theorem busAddress_calcReg (d : Dir) : (busAddress d s).calcReg = s.calcReg := rfl
@[simp] theorem busAddress_rxbuf (d : Dir) : (busAddress d s).rxbuf = s.rxbuf := rfl
@[simp] theorem busAddress_resKind (d : Dir) : (busAddress d s).resKind = s.resKind := rfl
@[simp] theorem busAddress_resCode (d : Dir) : (busAddress d s).resCode = s.resCode := rfl
@[simp] theorem busAddress_infoRfu (d : Dir) : (busAddress d s).infoRfu = s.infoRfu := rfl
@[simp] theorem busAddress_infoDevid (d : Dir) : (busAddress d s).infoDevid = s.infoDevid := rfl
@[simp] theorem busAddress_infoSilid (d : Dir) : (busAddress d s).infoSilid = s.infoSilid := rfl
@[simp] theorem busAddress_infoRev (d : Dir) : (busAddress d s).infoRev = s.infoRev := rfl
@[simp] theorem busAddress_rnd (d : Dir) : (busAddress d s).rnd = s.rnd := rfl
@[simp] theorem busAddress_ser (d : Dir) : (busAddress d s).ser = s.ser := rfl
@[simp] theorem busAddress_phase (d : Dir) : (busAddress d s).phase = s.phase := rfl
@[simp] theorem busAddress_idx (d : Dir) : (busAddress d s).idx = s.idx := rfl
@[simp] theorem busAddress_eng (d : Dir) : (busAddress d s).eng = s.eng := rfl
@[simp] theorem busAddress_txn (d : Dir) : (busAddress d s).txn = openedBy d := rfl
@[simp] theorem busAddress_written (d : Dir) : (busAddress d s).written = s.written := rfl
@[simp] theorem busAddress_program (d : Dir) : (busAddress d s).program = s.program := rfl
@[simp] theorem busAddress_acks (d : Dir) : (busAddress d s).acks = s.acks := rfl
@[simp] theorem busAddress_bytes (d : Dir) : (busAddress d s).bytes = s.bytes := rfl
@[simp] theorem busAddress_callsLeft (d : Dir) : (busAddress d s).callsLeft = s.callsLeft := rfl
@[simp] theorem busAddress_draws (d : Dir) : (busAddress d s).draws = s.draws := rfl
@[simp] theorem busAddress_trace (d : Dir) : (busAddress d s).trace = s.trace ++ [.busAddress s.cfg.devAddr d] := rfl
@[simp] theorem busAddress_cfg (d : Dir) : (busAddress d s).cfg = s.cfg := rfl

/-! ### busStop -/

@[simp] theorem busStop_cmd : (busStop s).cmd = s.cmd := rfl
@[simp] theorem busStop_busy : (busStop s).busy = s.busy := rfl
@[simp] theorem busStop_pktCount : (busStop s).pktCount = s.pktCount := rfl
@[simp] theorem busStop_pktOpcode : (busStop s).pktOpcode = s.pktOpcode := rfl
@[simp] theorem busStop_pktParam1 : (busStop s).pktParam1 = s.pktParam1 := rfl
@[simp] theorem busStop_pktParam2 : (busStop s).pktParam2 = s.pktParam2 := rfl
@[simp] theorem busStop_pktChecksum : (busStop s).pktChecksum = s.pktChecksum := rfl
@[simp] theorem busStop_txfill : (busStop s).txfill = s.txfill := rfl
@[simp] theorem busStop_frmLength : (busStop s).frmLength = s.frmLength := rfl
@[simp] theorem busStop_frmValid : (busStop s).frmValid = s.frmValid := rfl
@[simp] theorem busStop_frmChecksum : (busStop s).frmChecksum = s.frmChecksum := rfl
@[simp] theorem busStop_calcReg : (busStop s).calcReg = s.calcReg := rfl
@[simp] theorem busStop_rxbuf : (busStop s).rxbuf = s.rxbuf := rfl
@[simp] theorem busStop_resKind : (busStop s).resKind = s.resKind := rfl
@[simp] theorem busStop_resCode : (busStop s).resCode = s.resCode := rfl
@[simp] theorem busStop_infoRfu : (busStop s).infoRfu = s.infoRfu := rfl
@[simp] theorem busStop_infoDevid : (busStop s).infoDevid = s.infoDevid := rfl
@[simp] theorem busStop_infoSilid : (busStop s).infoSilid = s.infoSilid := rfl
@[simp] theorem busStop_infoRev : (busStop s).infoRev = s.infoRev := rfl
@[simp] theorem busStop_rnd : (busStop s).rnd = s.rnd := rfl
@[simp] theorem busStop_ser : (busStop s).ser = s.ser := rfl
@[simp] theorem busStop_phase : (busStop s).phase = s.phase := rfl
@[simp] theorem busStop_idx : (busStop s).idx = s.idx := rfl
@[simp] theorem busStop_eng : (busStop s).eng = s.eng := rfl
@[simp] theorem busStop_txn : (busStop s).txn = .closed := rfl
@[simp] theorem busStop_written : (busStop s).written = s.written := rfl
@[simp] theorem busStop_program : (busStop s).program = s.program := rfl
@[simp] theorem busStop_acks : (busStop s).acks = s.acks := rfl
@[simp] theorem busStop_bytes : (busStop s).bytes = s.bytes := rfl
@[simp] theorem busStop_callsLeft : (busStop s).callsLeft = s.callsLeft := rfl
@[simp] theorem busStop_draws : (busStop s).draws = s.draws := rfl
@[simp] theorem busStop_trace : (busStop s).trace = s.trace ++ [.busStop] := rfl
@[simp] theorem busStop_cfg : (busStop s).cfg = s.cfg := rfl

/-! ### delayMs -/

@[simp] theorem delayMs_cmd (n : Nat) : (delayMs n s).cmd = s.cmd := rfl
@[simp] theorem delayMs_busy (n : Nat) : (delayMs n s).busy = s.busy := rfl
@[simp] theorem delayMs_pktCount (n : Nat) : (delayMs n s).pktCount = s.pktCount := rfl
@[simp] theorem delayMs_pktOpcode (n : Nat) : (delayMs n s).pktOpcode = s.pktOpcode := rfl
@[simp] theorem delayMs_pktParam1 (n : Nat) : (delayMs n s).pktParam1 = s.pktParam1 := rfl
@[simp] theorem delayMs_pktParam2 (n : Nat) : (delayMs n s).pktParam2 = s.pktParam2 := rfl
@[simp] theorem delayMs_pktChecksum (n : Nat) : (delayMs n s).pktChecksum = s.pktChecksum := rfl
@[simp] theorem delayMs_txfill (n : Nat) : (delayMs n s).txfill = s.txfill := rfl
@[simp] theorem delayMs_frmLength (n : Nat) : (delayMs n s).frmLength = s.frmLength := rfl
@[simp] theorem delayMs_frmValid (n : Nat) : (delayMs n s).frmValid = s.frmValid := rfl
@[simp] theorem delayMs_frmChecksum (n : Nat) : (delayMs n s).frmChecksum = s.frmChecksum := rfl
@[simp] theorem delayMs_calcReg (n : Nat) : (delayMs n s).calcReg = s.calcReg := rfl
@[simp] theorem delayMs_rxbuf (n : Nat) : (delayMs n s).rxbuf = s.rxbuf := rfl
@[simp] theorem delayMs_resKind (n : Nat) : (delayMs n s).resKind = s.resKind := rfl
@[simp] theorem delayMs_resCode (n : Nat) : (delayMs n s).resCode = s.resCode := rfl
@[simp] theorem delayMs_infoRfu (n : Nat) : (delayMs n s).infoRfu = s.infoRfu := rfl
@[simp] theorem delayMs_infoDevid (n : Nat) : (delayMs n s).infoDevid = s.infoDevid := rfl
@[simp] theorem delayMs_infoSilid (n : Nat) : (delayMs n s).infoSilid = s.infoSilid := rfl
@[simp] theorem delayMs_infoRev (n : Nat) : (delayMs n s).infoRev = s.infoRev := rfl
@[simp] theorem delayMs_rnd (n : Nat) : (delayMs n s).rnd = s.rnd := rfl
@[simp] theorem delayMs_ser (n : Nat) : (delayMs n s).ser = s.ser := rfl
@[simp] theorem delayMs_phase (n : Nat) : (delayMs n s).phase = s.phase := rfl
@[simp] theorem delayMs_idx (n : Nat) : (delayMs n s).idx = s.idx := rfl
@[simp] theorem delayMs_eng (n : Nat) : (delayMs n s).eng = s.eng := rfl
@[simp] theorem delayMs_txn (n : Nat) : (delayMs n s).txn = s.txn := rfl
@[simp] theorem delayMs_written (n : Nat) : (delayMs n s).written = s.written := rfl
@[simp] theorem delayMs_program (n : Nat) : (delayMs n s).program = s.program := rfl
@[simp] theorem delayMs_acks (n : Nat) : (delayMs n s).acks = s.acks := rfl
@[simp] theorem delayMs_bytes (n : Nat) : (delayMs n s).bytes = s.bytes := rfl
@[simp] theorem delayMs_callsLeft (n : Nat) : (delayMs n s).callsLeft = s.callsLeft := rfl
@[simp] theorem delayMs_draws (n : Nat) : (delayMs n s).draws = s.draws := rfl
@[simp] theorem delayMs_trace (n : Nat) : (delayMs n s).trace = s.trace ++ [.delayMs n] := rfl
@[simp] theorem delayMs_cfg (n : Nat) : (delayMs n s).cfg = s.cfg := rfl

/-! ### accept -/

@[simp] theorem accept_cmd (w : Word) : (accept w s).cmd = w := rfl
@[simp] theorem accept_busy (w : Word) : (accept w s).busy = true := rfl
@[simp] theorem accept_pktCount (w : Word) : (accept w s).pktCount = s.pktCount := rfl
@[simp] theorem accept_pktOpcode (w : Word) : (accept w s).pktOpcode = s.pktOpcode := rfl
@[simp] theorem accept_pktParam1 (w : Word) : (accept w s).pktParam1 = s.pktParam1 := rfl
@[simp] theorem accept_pktParam2 (w : Word) : (accept w s).pktParam2 = s.pktParam2 := rfl
@[simp] theorem accept_pktChecksum (w : Word) : (accept w s).pktChecksum = s.pktChecksum := rfl
@[simp] theorem accept_txfill (w : Word) : (accept w s).txfill = s.txfill := rfl
@[simp] theorem accept_frmLength (w : Word) : (accept w s).frmLength = s.frmLength := rfl
@[simp] theorem accept_frmValid (w : Word) : (accept w s).frmValid = s.frmValid := rfl
@[simp] theorem accept_frmChecksum (w : Word) : (accept w s).frmChecksum = s.frmChecksum := rfl
@[simp] theorem accept_calcReg (w : Word) : (accept w s).calcReg = s.calcReg := rfl
@[simp] theorem accept_rxbuf (w : Word) : (accept w s).rxbuf = s.rxbuf := rfl
@[simp] theorem accept_resKind (w : Word) : (accept w s).resKind = s.resKind := rfl
@[simp] theorem accept_resCode (w : Word) : (accept w s).resCode = s.resCode := rfl
@[simp] theorem accept_infoRfu (w : Word) : (accept w s).infoRfu = s.infoRfu := rfl
@[simp] theorem accept_infoDevid (w : Word) : (accept w s).infoDevid = s.infoDevid := rfl
@[simp] theorem accept_infoSilid (w : Word) : (accept w s).infoSilid = s.infoSilid := rfl
@[simp] theorem accept_infoRev (w : Word) : (accept w s).infoRev = s.infoRev := rfl
@[simp] theorem accept_rnd (w : Word) : (accept w s).rnd = s.rnd := rfl
@[simp] theorem accept_ser (w : Word) : (accept w s).ser = s.ser := rfl
@[simp] theorem accept_phase (w : Word) : (accept w s).phase = .build := rfl
@[simp] theorem accept_idx (w : Word) : (accept w s).idx = s.idx := rfl
@[simp] theorem accept_eng (w : Word) : (accept w s).eng = s.eng := rfl
@[simp] theorem accept_txn (w : Word) : (accept w s).txn = s.txn := rfl
@[simp] theorem accept_written (w : Word) : (accept w s).written = s.written := rfl
@[simp] theorem accept_program (w : Word) : (accept w s).program = s.program := rfl
@[simp] theorem accept_acks (w : Word) : (accept w s).acks = s.acks := rfl
@[simp] theorem accept_bytes (w : Word) : (accept w s).bytes = s.bytes := rfl
@[simp] theorem accept_callsLeft (w : Word) : (accept w s).callsLeft = s.callsLeft := rfl
@[simp] theorem accept_draws (w : Word) : (accept w s).draws = s.draws := rfl
@[simp] theorem accept_trace (w : Word) : (accept w s).trace = s.trace := rfl
@[simp] theorem accept_cfg (w : Word) : (accept w s).cfg = s.cfg := rfl

/-! ### reject -/

@[simp] theorem reject_cmd : (reject s).cmd = s.cmd := rfl
@[simp] theorem reject_busy : (reject s).busy = s.busy := rfl
@[simp] theorem reject_pktCount : (reject s).pktCount = s.pktCount := rfl
@[simp] theorem reject_pktOpcode : (reject s).pktOpcode = s.pktOpcode := rfl
@[simp] theorem reject_pktParam1 : (reject s).pktParam1 = s.pktParam1 := rfl
@[simp] theorem reject_pktParam2 : (reject s).pktParam2 = s.pktParam2 := rfl
@[simp] theorem reject_pktChecksum : (reject s).pktChecksum = s.pktChecksum := rfl
@[simp] theorem reject_txfill : (reject s).txfill = s.txfill := rfl
@[simp] theorem reject_frmLength : (reject s).frmLength = s.frmLength := rfl
@[simp] theorem reject_frmValid : (reject s).frmValid = s.frmValid := rfl
@[simp] theorem reject_frmChecksum : (reject s).frmChecksum = s.frmChecksum := rfl
@[simp] theorem reject_calcReg : (reject s).calcReg = s.calcReg := rfl
@[simp] theorem reject_rxbuf : (reject s).rxbuf = s.rxbuf := rfl
@[simp] theorem reject_resKind : (reject s).resKind = .rejected := rfl
@[simp] theorem reject_resCode : (reject s).resCode = Config.freeCode s.draws := rfl
@[simp] theorem reject_infoRfu : (reject s).infoRfu = s.infoRfu := rfl
@[simp] theorem reject_infoDevid : (reject s).infoDevid = s.infoDevid := rfl
@[simp] theorem reject_infoSilid : (reject s).infoSilid = s.infoSilid := rfl
@[simp] theorem reject_infoRev : (reject s).infoRev = s.infoRev := rfl
@[simp] theorem reject_rnd : (reject s).rnd = s.rnd := rfl
@[simp] theorem reject_ser : (reject s).ser = s.ser := rfl
@[simp] theorem reject_phase : (reject s).phase = s.phase := rfl
@[simp] theorem reject_idx : (reject s).idx = s.idx := rfl
@[simp] theorem reject_eng : (reject s).eng = s.eng := rfl
@[simp] theorem reject_txn : (reject s).txn = s.txn := rfl
@[simp] theorem reject_written : (reject s).written = s.written := rfl
@[simp] theorem reject_program : (reject s).program = s.program := rfl
@[simp] theorem reject_acks : (reject s).acks = s.acks := rfl
@[simp] theorem reject_bytes : (reject s).bytes = s.bytes := rfl
@[simp] theorem reject_callsLeft : (reject s).callsLeft = s.callsLeft := rfl
@[simp] theorem reject_draws : (reject s).draws = s.draws + 1 := rfl
@[simp] theorem reject_trace : (reject s).trace = s.trace := rfl
@[simp] theorem reject_cfg : (reject s).cfg = s.cfg := rfl

/-! ### complete -/

@[simp] theorem complete_cmd : (complete s).cmd = s.cmd := rfl
@[simp] theorem complete_busy : (complete s).busy = false := rfl
@[simp] theorem complete_pktCount : (complete s).pktCount = s.pktCount := rfl
@[simp] theorem complete_pktOpcode : (complete s).pktOpcode = s.pktOpcode := rfl
@[simp] theorem complete_pktParam1 : (complete s).pktParam1 = s.pktParam1 := rfl
@[simp] theorem complete_pktParam2 : (complete s).pktParam2 = s.pktParam2 := rfl
@[simp] theorem complete_pktChecksum : (complete s).pktChecksum = s.pktChecksum := rfl
@[simp] theorem complete_txfill : (complete s).txfill = s.txfill := rfl
@[simp] theorem complete_frmLength : (complete s).frmLength = s.frmLength := rfl
@[simp] theorem complete_frmValid : (complete s).frmValid = s.frmValid := rfl
@[simp] theorem complete_frmChecksum : (complete s).frmChecksum = s.frmChecksum := rfl
@[simp] theorem complete_calcReg : (complete s).calcReg = s.calcReg := rfl
@[simp] theorem complete_rxbuf : (complete s).rxbuf = s.rxbuf := rfl
@[simp] theorem complete_resKind : (complete s).resKind = s.resKind := rfl
@[simp] theorem complete_resCode : (complete s).resCode = s.resCode := rfl
@[simp] theorem complete_infoRfu : (complete s).infoRfu = s.infoRfu := rfl
@[simp] theorem complete_infoDevid : (complete s).infoDevid = s.infoDevid := rfl
@[simp] theorem complete_infoSilid : (complete s).infoSilid = s.infoSilid := rfl
@[simp] theorem complete_infoRev : (complete s).infoRev = s.infoRev := rfl
@[simp] theorem complete_rnd : (complete s).rnd = s.rnd := rfl
@[simp] theorem complete_ser : (complete s).ser = s.ser := rfl
@[simp] theorem complete_phase : (complete s).phase = .idle := rfl
@[simp] theorem complete_idx : (complete s).idx = s.idx := rfl
@[simp] theorem complete_eng : (complete s).eng = s.eng := rfl
@[simp] theorem complete_txn : (complete s).txn = s.txn := rfl
@[simp] theorem complete_written : (complete s).written = s.written := rfl
@[simp] theorem complete_program : (complete s).program = s.program := rfl
@[simp] theorem complete_acks : (complete s).acks = s.acks := rfl
@[simp] theorem complete_bytes : (complete s).bytes = s.bytes := rfl
@[simp] theorem complete_callsLeft : (complete s).callsLeft = s.callsLeft := rfl
@[simp] theorem complete_draws : (complete s).draws = s.draws := rfl
@[simp] theorem complete_trace : (complete s).trace = s.trace := rfl
@[simp] theorem complete_cfg : (complete s).cfg = s.cfg := rfl

/-! ### raiseBusError -/

@[simp] theorem raiseBusError_cmd : (raiseBusError s).cmd = s.cmd := rfl
@[simp] theorem raiseBusError_busy : (raiseBusError s).busy = s.busy := rfl
@[simp] theorem raiseBusError_pktCount : (raiseBusError s).pktCount = s.pktCount := rfl
@[simp] theorem raiseBusError_pktOpcode : (raiseBusError s).pktOpcode = s.pktOpcode := rfl
@[simp] theorem raiseBusError_pktParam1 : (raiseBusError s).pktParam1 = s.pktParam1 := rfl
@[simp] theorem raiseBusError_pktParam2 : (raiseBusError s).pktParam2 = s.pktParam2 := rfl
@[simp] theorem raiseBusError_pktChecksum : (raiseBusError s).pktChecksum = s.pktChecksum := rfl
@[simp] theorem raiseBusError_txfill : (raiseBusError s).txfill = s.txfill := rfl
@[simp] theorem raiseBusError_frmLength : (raiseBusError s).frmLength = s.frmLength := rfl
@[simp] theorem raiseBusError_frmValid : (raiseBusError s).frmValid = s.frmValid := rfl
@[simp] theorem raiseBusError_frmChecksum : (raiseBusError s).frmChecksum = s.frmChecksum := rfl
@[simp] theorem raiseBusError_calcReg : (raiseBusError s).calcReg = s.calcReg := rfl
@[simp] theorem raiseBusError_rxbuf : (raiseBusError s).rxbuf = s.rxbuf := rfl
@[simp] theorem raiseBusError_resKind : (raiseBusError s).resKind = .busError := rfl
@[simp] theorem raiseBusError_resCode : (raiseBusError s).resCode = s.cfg.stBusError := rfl
@[simp] theorem raiseBusError_infoRfu : (raiseBusError s).infoRfu = s.infoRfu := rfl
@[simp] theorem raiseBusError_infoDevid : (raiseBusError s).infoDevid = s.infoDevid := rfl
@[simp] theorem raiseBusError_infoSilid : (raiseBusError s).infoSilid = s.infoSilid := rfl
@[simp] theorem raiseBusError_infoRev : (raiseBusError s).infoRev = s.infoRev := rfl
@[simp] theorem raiseBusError_rnd : (raiseBusError s).rnd = s.rnd := rfl
@[simp] theorem raiseBusError_ser : (raiseBusError s).ser = s.ser := rfl
@[simp] theorem raiseBusError_phase : (raiseBusError s).phase = s.phase := rfl
@[simp] theorem raiseBusError_idx : (raiseBusError s).idx = s.idx := rfl
@[simp] theorem raiseBusError_eng : (raiseBusError s).eng = s.eng := rfl
@[simp] theorem raiseBusError_txn : (raiseBusError s).txn = .closed := rfl
@[simp] theorem raiseBusError_written : (raiseBusError s).written = s.written := rfl
@[simp] theorem raiseBusError_program : (raiseBusError s).program = s.program := rfl
@[simp] theorem raiseBusError_acks : (raiseBusError s).acks = s.acks := rfl
@[simp] theorem raiseBusError_bytes : (raiseBusError s).bytes = s.bytes := rfl
@[simp] theorem raiseBusError_callsLeft : (raiseBusError s).callsLeft = s.callsLeft := rfl
@[simp] theorem raiseBusError_draws : (raiseBusError s).draws = s.draws := rfl
@[simp] theorem raiseBusError_trace : (raiseBusError s).trace = s.trace ++ [.busStop] := rfl
@[simp] theorem raiseBusError_cfg : (raiseBusError s).cfg = s.cfg := rfl

/-! ### buildPacket -/

@[simp] theorem buildPacket_cmd (o p1 : Byte) (p2 : Word) (n : Byte) : (buildPacket o p1 p2 n s).cmd = s.cmd := rfl
@[simp] theorem buildPacket_busy (o p1 : Byte) (p2 : Word) (n : Byte) : (buildPacket o p1 p2 n s).busy = s.busy := rfl
@[simp] theorem buildPacket_pktCount (o p1 : Byte) (p2 : Word) (n : Byte) : (buildPacket o p1 p2 n s).pktCount = s.cfg.overhead + n := rfl
@[simp] theorem buildPacket_pktOpcode (o p1 : Byte) (p2 : Word) (n : Byte) : (buildPacket o p1 p2 n s).pktOpcode = o := rfl
@[simp] theorem buildPacket_pktParam1 (o p1 : Byte) (p2 : Word) (n : Byte) : (buildPacket o p1 p2 n s).pktParam1 = p1 := rfl
@[simp] theorem buildPacket_pktParam2 (o p1 : Byte) (p2 : Word) (n : Byte) : (buildPacket o p1 p2 n s).pktParam2 = p2 := rfl
@[simp] theorem buildPacket_pktChecksum (o p1 : Byte) (p2 : Word) (n : Byte) : (buildPacket o p1 p2 n s).pktChecksum = s.pktChecksum := rfl
@[simp] theorem buildPacket_txfill (o p1 : Byte) (p2 : Word) (n : Byte) : (buildPacket o p1 p2 n s).txfill = n := rfl
@[simp] theorem buildPacket_frmLength (o p1 : Byte) (p2 : Word) (n : Byte) : (buildPacket o p1 p2 n s).frmLength = s.frmLength := rfl
@[simp] theorem buildPacket_frmValid (o p1 : Byte) (p2 : Word) (n : Byte) : (buildPacket o p1 p2 n s).frmValid = s.frmValid := rfl
@[simp] theorem buildPacket_frmChecksum (o p1 : Byte) (p2 : Word) (n : Byte) : (buildPacket o p1 p2 n s).frmChecksum = s.frmChecksum := rfl
@[simp] theorem buildPacket_calcReg (o p1 : Byte) (p2 : Word) (n : Byte) : (buildPacket o p1 p2 n s).calcReg = s.calcReg := rfl
@[simp] theorem buildPacket_rxbuf (o p1 : Byte) (p2 : Word) (n : Byte) : (buildPacket o p1 p2 n s).rxbuf = s.rxbuf := rfl
@[simp] theorem buildPacket_resKind (o p1 : Byte) (p2 : Word) (n : Byte) : (buildPacket o p1 p2 n s).resKind = s.resKind := rfl
@[simp] theorem buildPacket_resCode (o p1 : Byte) (p2 : Word) (n : Byte) : (buildPacket o p1 p2 n s).resCode = s.resCode := rfl
@[simp] theorem buildPacket_infoRfu (o p1 : Byte) (p2 : Word) (n : Byte) : (buildPacket o p1 p2 n s).infoRfu = s.infoRfu := rfl
@[simp] theorem buildPacket_infoDevid (o p1 : Byte) (p2 : Word) (n : Byte) : (buildPacket o p1 p2 n s).infoDevid = s.infoDevid := rfl
@[simp] theorem buildPacket_infoSilid (o p1 : Byte) (p2 : Word) (n : Byte) : (buildPacket o p1 p2 n s).infoSilid = s.infoSilid := rfl
@[simp] theorem buildPacket_infoRev (o p1 : Byte) (p2 : Word) (n : Byte) : (buildPacket o p1 p2 n s).infoRev = s.infoRev := rfl
@[simp] theorem buildPacket_rnd (o p1 : Byte) (p2 : Word) (n : Byte) : (buildPacket o p1 p2 n s).rnd = s.rnd := rfl
@[simp] theorem buildPacket_ser (o p1 : Byte) (p2 : Word) (n : Byte) : (buildPacket o p1 p2 n s).ser = s.ser := rfl
@[simp] theorem buildPacket_phase (o p1 : Byte) (p2 : Word) (n : Byte) : (buildPacket o p1 p2 n s).phase = s.phase := rfl
@[simp] theorem buildPacket_idx (o p1 : Byte) (p2 : Word) (n : Byte) : (buildPacket o p1 p2 n s).idx = s.idx := rfl
@[simp] theorem buildPacket_eng (o p1 : Byte) (p2 : Word) (n : Byte) : (buildPacket o p1 p2 n s).eng = s.eng := rfl
@[simp] theorem buildPacket_txn (o p1 : Byte) (p2 : Word) (n : Byte) : (buildPacket o p1 p2 n s).txn = s.txn := rfl
@[simp] theorem buildPacket_written (o p1 : Byte) (p2 : Word) (n : Byte) : (buildPacket o p1 p2 n s).written = { s.written with packet := true } := rfl
@[simp] theorem buildPacket_program (o p1 : Byte) (p2 : Word) (n : Byte) : (buildPacket o p1 p2 n s).program = s.program := rfl
@[simp] theorem buildPacket_acks (o p1 : Byte) (p2 : Word) (n : Byte) : (buildPacket o p1 p2 n s).acks = s.acks := rfl
@[simp] theorem buildPacket_bytes (o p1 : Byte) (p2 : Word) (n : Byte) : (buildPacket o p1 p2 n s).bytes = s.bytes := rfl
@[simp] theorem buildPacket_callsLeft (o p1 : Byte) (p2 : Word) (n : Byte) : (buildPacket o p1 p2 n s).callsLeft = s.callsLeft := rfl
@[simp] theorem buildPacket_draws (o p1 : Byte) (p2 : Word) (n : Byte) : (buildPacket o p1 p2 n s).draws = s.draws := rfl
@[simp] theorem buildPacket_trace (o p1 : Byte) (p2 : Word) (n : Byte) : (buildPacket o p1 p2 n s).trace = s.trace := rfl
@[simp] theorem buildPacket_cfg (o p1 : Byte) (p2 : Word) (n : Byte) : (buildPacket o p1 p2 n s).cfg = s.cfg := rfl

/-! ### setPktChecksum -/

@[simp] theorem setPktChecksum_cmd (c : Word) : (setPktChecksum c s).cmd = s.cmd := rfl
@[simp] theorem setPktChecksum_busy (c : Word) : (setPktChecksum c s).busy = s.busy := rfl
@[simp] theorem setPktChecksum_pktCount (c : Word) : (setPktChecksum c s).pktCount = s.pktCount := rfl
@[simp] theorem setPktChecksum_pktOpcode (c : Word) : (setPktChecksum c s).pktOpcode = s.pktOpcode := rfl
@[simp] theorem setPktChecksum_pktParam1 (c : Word) : (setPktChecksum c s).pktParam1 = s.pktParam1 := rfl
@[simp] theorem setPktChecksum_pktParam2 (c : Word) : (setPktChecksum c s).pktParam2 = s.pktParam2 := rfl
@[simp] theorem setPktChecksum_pktChecksum (c : Word) : (setPktChecksum c s).pktChecksum = c := rfl
@[simp] theorem setPktChecksum_txfill (c : Word) : (setPktChecksum c s).txfill = s.txfill := rfl
@[simp] theorem setPktChecksum_frmLength (c : Word) : (setPktChecksum c s).frmLength = s.frmLength := rfl
@[simp] theorem setPktChecksum_frmValid (c : Word) : (setPktChecksum c s).frmValid = s.frmValid := rfl
@[simp] theorem setPktChecksum_frmChecksum (c : Word) : (setPktChecksum c s).frmChecksum = s.frmChecksum := rfl
@[simp] theorem setPktChecksum_calcReg (c : Word) : (setPktChecksum c s).calcReg = s.calcReg := rfl
@[simp] theorem setPktChecksum_rxbuf (c : Word) : (setPktChecksum c s).rxbuf = s.rxbuf := rfl
@[simp] theorem setPktChecksum_resKind (c : Word) : (setPktChecksum c s).resKind = s.resKind := rfl
@[simp] theorem setPktChecksum_resCode (c : Word) : (setPktChecksum c s).resCode = s.resCode := rfl
@[simp] theorem setPktChecksum_infoRfu (c : Word) : (setPktChecksum c s).infoRfu = s.infoRfu := rfl
@[simp] theorem setPktChecksum_infoDevid (c : Word) : (setPktChecksum c s).infoDevid = s.infoDevid := rfl
@[simp] theorem setPktChecksum_infoSilid (c : Word) : (setPktChecksum c s).infoSilid = s.infoSilid := rfl
@[simp] theorem setPktChecksum_infoRev (c : Word) : (setPktChecksum c s).infoRev = s.infoRev := rfl
@[simp] theorem setPktChecksum_rnd (c : Word) : (setPktChecksum c s).rnd = s.rnd := rfl
@[simp] theorem setPktChecksum_ser (c : Word) : (setPktChecksum c s).ser = s.ser := rfl
@[simp] theorem setPktChecksum_phase (c : Word) : (setPktChecksum c s).phase = s.phase := rfl
@[simp] theorem setPktChecksum_idx (c : Word) : (setPktChecksum c s).idx = s.idx := rfl
@[simp] theorem setPktChecksum_eng (c : Word) : (setPktChecksum c s).eng = s.eng := rfl
@[simp] theorem setPktChecksum_txn (c : Word) : (setPktChecksum c s).txn = s.txn := rfl
@[simp] theorem setPktChecksum_written (c : Word) : (setPktChecksum c s).written = { s.written with pktChecksum := true } := rfl
@[simp] theorem setPktChecksum_program (c : Word) : (setPktChecksum c s).program = s.program := rfl
@[simp] theorem setPktChecksum_acks (c : Word) : (setPktChecksum c s).acks = s.acks := rfl
@[simp] theorem setPktChecksum_bytes (c : Word) : (setPktChecksum c s).bytes = s.bytes := rfl
@[simp] theorem setPktChecksum_callsLeft (c : Word) : (setPktChecksum c s).callsLeft = s.callsLeft := rfl
@[simp] theorem setPktChecksum_draws (c : Word) : (setPktChecksum c s).draws = s.draws := rfl
@[simp] theorem setPktChecksum_trace (c : Word) : (setPktChecksum c s).trace = s.trace := rfl
@[simp] theorem setPktChecksum_cfg (c : Word) : (setPktChecksum c s).cfg = s.cfg := rfl

/-! ### setFrmLength -/

@[simp] theorem setFrmLength_cmd (l : Byte) : (setFrmLength l s).cmd = s.cmd := rfl
@[simp] theorem setFrmLength_busy (l : Byte) : (setFrmLength l s).busy = s.busy := rfl
@[simp] theorem setFrmLength_pktCount (l : Byte) : (setFrmLength l s).pktCount = s.pktCount := rfl
@[simp] theorem setFrmLength_pktOpcode (l : Byte) : (setFrmLength l s).pktOpcode = s.pktOpcode := rfl
@[simp] theorem setFrmLength_pktParam1 (l : Byte) : (setFrmLength l s).pktParam1 = s.pktParam1 := rfl
@[simp] theorem setFrmLength_pktParam2 (l : Byte) : (setFrmLength l s).pktParam2 = s.pktParam2 := rfl
@[simp] theorem setFrmLength_pktChecksum (l : Byte) : (setFrmLength l s).pktChecksum = s.pktChecksum := rfl
@[simp] theorem setFrmLength_txfill (l : Byte) : (setFrmLength l s).txfill = s.txfill := rfl
@[simp] theorem setFrmLength_frmLength (l : Byte) : (setFrmLength l s).frmLength = l := rfl
@[simp] theorem setFrmLength_frmValid (l : Byte) : (setFrmLength l s).frmValid = s.frmValid := rfl
@[simp] theorem setFrmLength_frmChecksum (l : Byte) : (setFrmLength l s).frmChecksum = s.frmChecksum := rfl
@[simp] theorem setFrmLength_calcReg (l : Byte) : (setFrmLength l s).calcReg = s.calcReg := rfl
@[simp] theorem setFrmLength_rxbuf (l : Byte) : (setFrmLength l s).rxbuf = s.rxbuf := rfl
@[simp] theorem setFrmLength_resKind (l : Byte) : (setFrmLength l s).resKind = s.resKind := rfl
@[simp] theorem setFrmLength_resCode (l : Byte) : (setFrmLength l s).resCode = s.resCode := rfl
@[simp] theorem setFrmLength_infoRfu (l : Byte) : (setFrmLength l s).infoRfu = s.infoRfu := rfl
@[simp] theorem setFrmLength_infoDevid (l : Byte) : (setFrmLength l s).infoDevid = s.infoDevid := rfl
@[simp] theorem setFrmLength_infoSilid (l : Byte) : (setFrmLength l s).infoSilid = s.infoSilid := rfl
@[simp] theorem setFrmLength_infoRev (l : Byte) : (setFrmLength l s).infoRev = s.infoRev := rfl
@[simp] theorem setFrmLength_rnd (l : Byte) : (setFrmLength l s).rnd = s.rnd := rfl
@[simp] theorem setFrmLength_ser (l : Byte) : (setFrmLength l s).ser = s.ser := rfl
@[simp] theorem setFrmLength_phase (l : Byte) : (setFrmLength l s).phase = s.phase := rfl
@[simp] theorem setFrmLength_idx (l : Byte) : (setFrmLength l s).idx = s.idx := rfl
@[simp] theorem setFrmLength_eng (l : Byte) : (setFrmLength l s).eng = s.eng := rfl
@[simp] theorem setFrmLength_txn (l : Byte) : (setFrmLength l s).txn = s.txn := rfl
@[simp] theorem setFrmLength_written (l : Byte) : (setFrmLength l s).written = { s.written with frmLength := true } := rfl
@[simp] theorem setFrmLength_program (l : Byte) : (setFrmLength l s).program = s.program := rfl
@[simp] theorem setFrmLength_acks (l : Byte) : (setFrmLength l s).acks = s.acks := rfl
@[simp] theorem setFrmLength_bytes (l : Byte) : (setFrmLength l s).bytes = s.bytes := rfl
@[simp] theorem setFrmLength_callsLeft (l : Byte) : (setFrmLength l s).callsLeft = s.callsLeft := rfl
@[simp] theorem setFrmLength_draws (l : Byte) : (setFrmLength l s).draws = s.draws := rfl
@[simp] theorem setFrmLength_trace (l : Byte) : (setFrmLength l s).trace = s.trace := rfl
@[simp] theorem setFrmLength_cfg (l : Byte) : (setFrmLength l s).cfg = s.cfg := rfl

/-! ### setFrmChecksumLo -/

@[simp] theorem setFrmChecksumLo_cmd (b : Byte) : (setFrmChecksumLo b s).cmd = s.cmd := rfl
@[simp] theorem setFrmChecksumLo_busy (b : Byte) : (setFrmChecksumLo b s).busy = s.busy := rfl
@[simp] theorem setFrmChecksumLo_pktCount (b : Byte) : (setFrmChecksumLo b s).pktCount = s.pktCount := rfl
@[simp] theorem setFrmChecksumLo_pktOpcode (b : Byte) : (setFrmChecksumLo b s).pktOpcode = s.pktOpcode := rfl
@[simp] theorem setFrmChecksumLo_pktParam1 (b : Byte) : (setFrmChecksumLo b s).pktParam1 = s.pktParam1 := rfl
@[simp] theorem setFrmChecksumLo_pktParam2 (b : Byte) : (setFrmChecksumLo b s).pktParam2 = s.pktParam2 := rfl
@[simp] theorem setFrmChecksumLo_pktChecksum (b : Byte) : (setFrmChecksumLo b s).pktChecksum = s.pktChecksum := rfl
@[simp] theorem setFrmChecksumLo_txfill (b : Byte) : (setFrmChecksumLo b s).txfill = s.txfill := rfl
@[simp] theorem setFrmChecksumLo_frmLength (b : Byte) : (setFrmChecksumLo b s).frmLength = s.frmLength := rfl
@[simp] theorem setFrmChecksumLo_frmValid (b : Byte) : (setFrmChecksumLo b s).frmValid = s.frmValid := rfl
@[simp] theorem setFrmChecksumLo_frmChecksum (b : Byte) : (setFrmChecksumLo b s).frmChecksum = joinBytes (hiByte s.frmChecksum) b := rfl
@[simp] theorem setFrmChecksumLo_calcReg (b : Byte) : (setFrmChecksumLo b s).calcReg = s.calcReg := rfl
@[simp] theorem setFrmChecksumLo_rxbuf (b : Byte) : (setFrmChecksumLo b s).rxbuf = s.rxbuf := rfl
@[simp] theorem setFrmChecksumLo_resKind (b : Byte) : (setFrmChecksumLo b s).resKind = s.resKind := rfl
@[simp] theorem setFrmChecksumLo_resCode (b : Byte) : (setFrmChecksumLo b s).resCode = s.resCode := rfl
@[simp] theorem setFrmChecksumLo_infoRfu (b : Byte) : (setFrmChecksumLo b s).infoRfu = s.infoRfu := rfl
@[simp] theorem setFrmChecksumLo_infoDevid (b : Byte) : (setFrmChecksumLo b s).infoDevid = s.infoDevid := rfl
@[simp] theorem setFrmChecksumLo_infoSilid (b : Byte) : (setFrmChecksumLo b s).infoSilid = s.infoSilid := rfl
@[simp] theorem setFrmChecksumLo_infoRev (b : Byte) : (setFrmChecksumLo b s).infoRev = s.infoRev := rfl
@[simp] theorem setFrmChecksumLo_rnd (b : Byte) : (setFrmChecksumLo b s).rnd = s.rnd := rfl
@[simp] theorem setFrmChecksumLo_ser (b : Byte) : (setFrmChecksumLo b s).ser = s.ser := rfl
@[simp] theorem setFrmChecksumLo_phase (b : Byte) : (setFrmChecksumLo b s).phase = s.phase := rfl
@[simp] theorem setFrmChecksumLo_idx (b : Byte) : (setFrmChecksumLo b s).idx = s.idx := rfl
@[simp] theorem setFrmChecksumLo_eng (b : Byte) : (setFrmChecksumLo b s).eng = s.eng := rfl
@[simp] theorem setFrmChecksumLo_txn (b : Byte) : (setFrmChecksumLo b s).txn = s.txn := rfl
@[simp] theorem setFrmChecksumLo_written (b : Byte) : (setFrmChecksumLo b s).written = s.written := rfl
@[simp] theorem setFrmChecksumLo_program (b : Byte) : (setFrmChecksumLo b s).program = s.program := rfl
@[simp] theorem setFrmChecksumLo_acks (b : Byte) : (setFrmChecksumLo b s).acks = s.acks := rfl
@[simp] theorem setFrmChecksumLo_bytes (b : Byte) : (setFrmChecksumLo b s).bytes = s.bytes := rfl
@[simp] theorem setFrmChecksumLo_callsLeft (b : Byte) : (setFrmChecksumLo b s).callsLeft = s.callsLeft := rfl
@[simp] theorem setFrmChecksumLo_draws (b : Byte) : (setFrmChecksumLo b s).draws = s.draws := rfl
@[simp] theorem setFrmChecksumLo_trace (b : Byte) : (setFrmChecksumLo b s).trace = s.trace := rfl
@[simp] theorem setFrmChecksumLo_cfg (b : Byte) : (setFrmChecksumLo b s).cfg = s.cfg := rfl

/-! ### setFrmChecksumHi -/

@[simp] theorem setFrmChecksumHi_cmd (b : Byte) : (setFrmChecksumHi b s).cmd = s.cmd := rfl
@[simp] theorem setFrmChecksumHi_busy (b : Byte) : (setFrmChecksumHi b s).busy = s.busy := rfl
@[simp] theorem setFrmChecksumHi_pktCount (b : Byte) : (setFrmChecksumHi b s).pktCount = s.pktCount := rfl
@[simp] theorem setFrmChecksumHi_pktOpcode (b : Byte) : (setFrmChecksumHi b s).pktOpcode = s.pktOpcode := rfl
@[simp] theorem setFrmChecksumHi_pktParam1 (b : Byte) : (setFrmChecksumHi b s).pktParam1 = s.pktParam1 := rfl
@[simp] theorem setFrmChecksumHi_pktParam2 (b : Byte) : (setFrmChecksumHi b s).pktParam2 = s.pktParam2 := rfl
@[simp] theorem setFrmChecksumHi_pktChecksum (b : Byte) : (setFrmChecksumHi b s).pktChecksum = s.pktChecksum := rfl
@[simp] theorem setFrmChecksumHi_txfill (b : Byte) : (setFrmChecksumHi b s).txfill = s.txfill := rfl
@[simp] theorem setFrmChecksumHi_frmLength (b : Byte) : (setFrmChecksumHi b s).frmLength = s.frmLength := rfl
@[simp] theorem setFrmChecksumHi_frmValid (b : Byte) : (setFrmChecksumHi b s).frmValid = s.frmValid := rfl
@[simp] theorem setFrmChecksumHi_frmChecksum (b : Byte) : (setFrmChecksumHi b s).frmChecksum = joinBytes b (loByte s.frmChecksum) := rfl
@[simp] theorem setFrmChecksumHi_calcReg (b : Byte) : (setFrmChecksumHi b s).calcReg = s.calcReg := rfl
@[simp] theorem setFrmChecksumHi_rxbuf (b : Byte) : (setFrmChecksumHi b s).rxbuf = s.rxbuf := rfl
@[simp] theorem setFrmChecksumHi_resKind (b : Byte) : (setFrmChecksumHi b s).resKind = s.resKind := rfl
@[simp] theorem setFrmChecksumHi_resCode (b : Byte) : (setFrmChecksumHi b s).resCode = s.resCode := rfl
@[simp] theorem setFrmChecksumHi_infoRfu (b : Byte) : (setFrmChecksumHi b s).infoRfu = s.infoRfu := rfl
@[simp] theorem setFrmChecksumHi_infoDevid (b : Byte) : (setFrmChecksumHi b s).infoDevid = s.infoDevid := rfl
@[simp] theorem setFrmChecksumHi_infoSilid (b : Byte) : (setFrmChecksumHi b s).infoSilid = s.infoSilid := rfl
@[simp] theorem setFrmChecksumHi_infoRev (b : Byte) : (setFrmChecksumHi b s).infoRev = s.infoRev := rfl
@[simp] theorem setFrmChecksumHi_rnd (b : Byte) : (setFrmChecksumHi b s).rnd = s.rnd := rfl
@[simp] theorem setFrmChecksumHi_ser (b : Byte) : (setFrmChecksumHi b s).ser = s.ser := rfl
@[simp] theorem setFrmChecksumHi_phase (b : Byte) : (setFrmChecksumHi b s).phase = s.phase := rfl
@[simp] theorem setFrmChecksumHi_idx (b : Byte) : (setFrmChecksumHi b s).idx = s.idx := rfl
@[simp] theorem setFrmChecksumHi_eng (b : Byte) : (setFrmChecksumHi b s).eng = s.eng := rfl
@[simp] theorem setFrmChecksumHi_txn (b : Byte) : (setFrmChecksumHi b s).txn = s.txn := rfl
@[simp] theorem setFrmChecksumHi_written (b : Byte) : (setFrmChecksumHi b s).written = { s.written with frmChecksum := true } := rfl
@[simp] theorem setFrmChecksumHi_program (b : Byte) : (setFrmChecksumHi b s).program = s.program := rfl
@[simp] theorem setFrmChecksumHi_acks (b : Byte) : (setFrmChecksumHi b s).acks = s.acks := rfl
@[simp] theorem setFrmChecksumHi_bytes (b : Byte) : (setFrmChecksumHi b s).bytes = s.bytes := rfl
@[simp] theorem setFrmChecksumHi_callsLeft (b : Byte) : (setFrmChecksumHi b s).callsLeft = s.callsLeft := rfl
@[simp] theorem setFrmChecksumHi_draws (b : Byte) : (setFrmChecksumHi b s).draws = s.draws := rfl
@[simp] theorem setFrmChecksumHi_trace (b : Byte) : (setFrmChecksumHi b s).trace = s.trace := rfl
@[simp] theorem setFrmChecksumHi_cfg (b : Byte) : (setFrmChecksumHi b s).cfg = s.cfg := rfl

/-! ### setCalc -/

@[simp] theorem setCalc_cmd (c : Word) : (setCalc c s).cmd = s.cmd := rfl
@[simp] theorem setCalc_busy (c : Word) : (setCalc c s).busy = s.busy := rfl
@[simp] theorem setCalc_pktCount (c : Word) : (setCalc c s).pktCount = s.pktCount := rfl
@[simp] theorem setCalc_pktOpcode (c : Word) : (setCalc c s).pktOpcode = s.pktOpcode := rfl
@[simp] theorem setCalc_pktParam1 (c : Word) : (setCalc c s).pktParam1 = s.pktParam1 := rfl
@[simp] theorem setCalc_pktParam2 (c : Word) : (setCalc c s).pktParam2 = s.pktParam2 := rfl
@[simp] theorem setCalc_pktChecksum (c : Word) : (setCalc c s).pktChecksum = s.pktChecksum := rfl
@[simp] theorem setCalc_txfill (c : Word) : (setCalc c s).txfill = s.txfill := rfl
@[simp] theorem setCalc_frmLength (c : Word) : (setCalc c s).frmLength = s.frmLength := rfl
@[simp] theorem setCalc_frmValid (c : Word) : (setCalc c s).frmValid = frameValid c s.frmChecksum := rfl
@[simp] theorem setCalc_frmChecksum (c : Word) : (setCalc c s).frmChecksum = s.frmChecksum := rfl
@[simp] theorem setCalc_calcReg (c : Word) : (setCalc c s).calcReg = c := rfl
@[simp] theorem setCalc_rxbuf (c : Word) : (setCalc c s).rxbuf = s.rxbuf := rfl
@[simp] theorem setCalc_resKind (c : Word) : (setCalc c s).resKind = s.resKind := rfl
@[simp] theorem setCalc_resCode (c : Word) : (setCalc c s).resCode = s.resCode := rfl
@[simp] theorem setCalc_infoRfu (c : Word) : (setCalc c s).infoRfu = s.infoRfu := rfl
@[simp] theorem setCalc_infoDevid (c : Word) : (setCalc c s).infoDevid = s.infoDevid := rfl
@[simp] theorem setCalc_infoSilid (c : Word) : (setCalc c s).infoSilid = s.infoSilid := rfl
@[simp] theorem setCalc_infoRev (c : Word) : (setCalc c s).infoRev = s.infoRev := rfl
@[simp] theorem setCalc_rnd (c : Word) : (setCalc c s).rnd = s.rnd := rfl
@[simp] theorem setCalc_ser (c : Word) : (setCalc c s).ser = s.ser := rfl
@[simp] theorem setCalc_phase (c : Word) : (setCalc c s).phase = s.phase := rfl
@[simp] theorem setCalc_idx (c : Word) : (setCalc c s).idx = s.idx := rfl
@[simp] theorem setCalc_eng (c : Word) : (setCalc c s).eng = s.eng := rfl
@[simp] theorem setCalc_txn (c : Word) : (setCalc c s).txn = s.txn := rfl
@[simp] theorem setCalc_written (c : Word) : (setCalc c s).written = { s.written with calcReg := true } := rfl
@[simp] theorem setCalc_program (c : Word) : (setCalc c s).program = s.program := rfl
@[simp] theorem setCalc_acks (c : Word) : (setCalc c s).acks = s.acks := rfl
@[simp] theorem setCalc_bytes (c : Word) : (setCalc c s).bytes = s.bytes := rfl
@[simp] theorem setCalc_callsLeft (c : Word) : (setCalc c s).callsLeft = s.callsLeft := rfl
@[simp] theorem setCalc_draws (c : Word) : (setCalc c s).draws = s.draws := rfl
@[simp] theorem setCalc_trace (c : Word) : (setCalc c s).trace = s.trace := rfl
@[simp] theorem setCalc_cfg (c : Word) : (setCalc c s).cfg = s.cfg := rfl

/-! ### deliverInfo -/

@[simp] theorem deliverInfo_cmd : (deliverInfo s).cmd = s.cmd := rfl
@[simp] theorem deliverInfo_busy : (deliverInfo s).busy = s.busy := rfl
@[simp] theorem deliverInfo_pktCount : (deliverInfo s).pktCount = s.pktCount := rfl
@[simp] theorem deliverInfo_pktOpcode : (deliverInfo s).pktOpcode = s.pktOpcode := rfl
@[simp] theorem deliverInfo_pktParam1 : (deliverInfo s).pktParam1 = s.pktParam1 := rfl
@[simp] theorem deliverInfo_pktParam2 : (deliverInfo s).pktParam2 = s.pktParam2 := rfl
@[simp] theorem deliverInfo_pktChecksum : (deliverInfo s).pktChecksum = s.pktChecksum := rfl
@[simp] theorem deliverInfo_txfill : (deliverInfo s).txfill = s.txfill := rfl
@[simp] theorem deliverInfo_frmLength : (deliverInfo s).frmLength = s.frmLength := rfl
@[simp] theorem deliverInfo_frmValid : (deliverInfo s).frmValid = s.frmValid := rfl
@[simp] theorem deliverInfo_frmChecksum : (deliverInfo s).frmChecksum = s.frmChecksum := rfl
@[simp] theorem deliverInfo_calcReg : (deliverInfo s).calcReg = s.calcReg := rfl
@[simp] theorem deliverInfo_rxbuf : (deliverInfo s).rxbuf = s.rxbuf := rfl
@[simp] theorem deliverInfo_resKind : (deliverInfo s).resKind = s.resKind := rfl
@[simp] theorem deliverInfo_resCode : (deliverInfo s).resCode = s.resCode := rfl
@[simp] theorem deliverInfo_infoRfu : (deliverInfo s).infoRfu = readByte .rxbuf 0 s := rfl
@[simp] theorem deliverInfo_infoDevid : (deliverInfo s).infoDevid = readByte .rxbuf 1 s := rfl
@[simp] theorem deliverInfo_infoSilid : (deliverInfo s).infoSilid = readByte .rxbuf 2 s := rfl
@[simp] theorem deliverInfo_infoRev : (deliverInfo s).infoRev = readByte .rxbuf 3 s := rfl
@[simp] theorem deliverInfo_rnd : (deliverInfo s).rnd = s.rnd := rfl
@[simp] theorem deliverInfo_ser : (deliverInfo s).ser = s.ser := rfl
@[simp] theorem deliverInfo_phase : (deliverInfo s).phase = s.phase := rfl
@[simp] theorem deliverInfo_idx : (deliverInfo s).idx = s.idx := rfl
@[simp] theorem deliverInfo_eng : (deliverInfo s).eng = s.eng := rfl
@[simp] theorem deliverInfo_txn : (deliverInfo s).txn = s.txn := rfl
@[simp] theorem deliverInfo_written : (deliverInfo s).written = { s.written with info := true } := rfl
@[simp] theorem deliverInfo_program : (deliverInfo s).program = s.program := rfl
@[simp] theorem deliverInfo_acks : (deliverInfo s).acks = s.acks := rfl
@[simp] theorem deliverInfo_bytes : (deliverInfo s).bytes = s.bytes := rfl
@[simp] theorem deliverInfo_callsLeft : (deliverInfo s).callsLeft = s.callsLeft := rfl
@[simp] theorem deliverInfo_draws : (deliverInfo s).draws = s.draws := rfl
@[simp] theorem deliverInfo_trace : (deliverInfo s).trace = s.trace := rfl
@[simp] theorem deliverInfo_cfg : (deliverInfo s).cfg = s.cfg := rfl

/-! ### busWrite -/

@[simp] theorem busWrite_cmd (b : Byte) : (busWrite b s).cmd = s.cmd := rfl
@[simp] theorem busWrite_busy (b : Byte) : (busWrite b s).busy = s.busy := rfl
@[simp] theorem busWrite_pktCount (b : Byte) : (busWrite b s).pktCount = s.pktCount := rfl
@[simp] theorem busWrite_pktOpcode (b : Byte) : (busWrite b s).pktOpcode = s.pktOpcode := rfl
@[simp] theorem busWrite_pktParam1 (b : Byte) : (busWrite b s).pktParam1 = s.pktParam1 := rfl
@[simp] theorem busWrite_pktParam2 (b : Byte) : (busWrite b s).pktParam2 = s.pktParam2 := rfl
@[simp] theorem busWrite_pktChecksum (b : Byte) : (busWrite b s).pktChecksum = s.pktChecksum := rfl
@[simp] theorem busWrite_txfill (b : Byte) : (busWrite b s).txfill = s.txfill := rfl
@[simp] theorem busWrite_frmLength (b : Byte) : (busWrite b s).frmLength = s.frmLength := rfl
@[simp] theorem busWrite_frmValid (b : Byte) : (busWrite b s).frmValid = s.frmValid := rfl
@[simp] theorem busWrite_frmChecksum (b : Byte) : (busWrite b s).frmChecksum = s.frmChecksum := rfl
@[simp] theorem busWrite_calcReg (b : Byte) : (busWrite b s).calcReg = s.calcReg := rfl
@[simp] theorem busWrite_rxbuf (b : Byte) : (busWrite b s).rxbuf = s.rxbuf := rfl
@[simp] theorem busWrite_resKind (b : Byte) : (busWrite b s).resKind = s.resKind := rfl
@[simp] theorem busWrite_resCode (b : Byte) : (busWrite b s).resCode = s.resCode := rfl
@[simp] theorem busWrite_infoRfu (b : Byte) : (busWrite b s).infoRfu = s.infoRfu := rfl
@[simp] theorem busWrite_infoDevid (b : Byte) : (busWrite b s).infoDevid = s.infoDevid := rfl
@[simp] theorem busWrite_infoSilid (b : Byte) : (busWrite b s).infoSilid = s.infoSilid := rfl
@[simp] theorem busWrite_infoRev (b : Byte) : (busWrite b s).infoRev = s.infoRev := rfl
@[simp] theorem busWrite_rnd (b : Byte) : (busWrite b s).rnd = s.rnd := rfl
@[simp] theorem busWrite_ser (b : Byte) : (busWrite b s).ser = s.ser := rfl
@[simp] theorem busWrite_phase (b : Byte) : (busWrite b s).phase = s.phase := rfl
@[simp] theorem busWrite_idx (b : Byte) : (busWrite b s).idx = s.idx := rfl
@[simp] theorem busWrite_eng (b : Byte) : (busWrite b s).eng = s.eng := rfl
@[simp] theorem busWrite_txn (b : Byte) : (busWrite b s).txn = s.txn := rfl
@[simp] theorem busWrite_written (b : Byte) : (busWrite b s).written = s.written := rfl
@[simp] theorem busWrite_program (b : Byte) : (busWrite b s).program = s.program := rfl
@[simp] theorem busWrite_acks (b : Byte) : (busWrite b s).acks = s.acks.tail := rfl
@[simp] theorem busWrite_bytes (b : Byte) : (busWrite b s).bytes = s.bytes := rfl
@[simp] theorem busWrite_callsLeft (b : Byte) : (busWrite b s).callsLeft = s.callsLeft := rfl
@[simp] theorem busWrite_draws (b : Byte) : (busWrite b s).draws = if s.acks = [] then s.draws + 1 else s.draws := rfl
@[simp] theorem busWrite_trace (b : Byte) : (busWrite b s).trace = s.trace ++ [.busWrite b (nextAck s)] := rfl
@[simp] theorem busWrite_cfg (b : Byte) : (busWrite b s).cfg = s.cfg := rfl

/-! ### busRead -/

@[simp] theorem busRead_cmd (k : AckKind) : (busRead k s).cmd = s.cmd := rfl
@[simp] theorem busRead_busy (k : AckKind) : (busRead k s).busy = s.busy := rfl
@[simp] theorem busRead_pktCount (k : AckKind) : (busRead k s).pktCount = s.pktCount := rfl
@[simp] theorem busRead_pktOpcode (k : AckKind) : (busRead k s).pktOpcode = s.pktOpcode := rfl
@[simp] theorem busRead_pktParam1 (k : AckKind) : (busRead k s).pktParam1 = s.pktParam1 := rfl
@[simp] theorem busRead_pktParam2 (k : AckKind) : (busRead k s).pktParam2 = s.pktParam2 := rfl
@[simp] theorem busRead_pktChecksum (k : AckKind) : (busRead k s).pktChecksum = s.pktChecksum := rfl
@[simp] theorem busRead_txfill (k : AckKind) : (busRead k s).txfill = s.txfill := rfl
@[simp] theorem busRead_frmLength (k : AckKind) : (busRead k s).frmLength = s.frmLength := rfl
@[simp] theorem busRead_frmValid (k : AckKind) : (busRead k s).frmValid = s.frmValid := rfl
@[simp] theorem busRead_frmChecksum (k : AckKind) : (busRead k s).frmChecksum = s.frmChecksum := rfl
@[simp] theorem busRead_calcReg (k : AckKind) : (busRead k s).calcReg = s.calcReg := rfl
@[simp] theorem busRead_rxbuf (k : AckKind) : (busRead k s).rxbuf = s.rxbuf := rfl
@[simp] theorem busRead_resKind (k : AckKind) : (busRead k s).resKind = s.resKind := rfl
@[simp] theorem busRead_resCode (k : AckKind) : (busRead k s).resCode = s.resCode := rfl
@[simp] theorem busRead_infoRfu (k : AckKind) : (busRead k s).infoRfu = s.infoRfu := rfl
@[simp] theorem busRead_infoDevid (k : AckKind) : (busRead k s).infoDevid = s.infoDevid := rfl
@[simp] theorem busRead_infoSilid (k : AckKind) : (busRead k s).infoSilid = s.infoSilid := rfl
@[simp] theorem busRead_infoRev (k : AckKind) : (busRead k s).infoRev = s.infoRev := rfl
@[simp] theorem busRead_rnd (k : AckKind) : (busRead k s).rnd = s.rnd := rfl
@[simp] theorem busRead_ser (k : AckKind) : (busRead k s).ser = s.ser := rfl
@[simp] theorem busRead_phase (k : AckKind) : (busRead k s).phase = s.phase := rfl
@[simp] theorem busRead_idx (k : AckKind) : (busRead k s).idx = s.idx := rfl
@[simp] theorem busRead_eng (k : AckKind) : (busRead k s).eng = s.eng := rfl
@[simp] theorem busRead_txn (k : AckKind) : (busRead k s).txn = s.txn := rfl
@[simp] theorem busRead_written (k : AckKind) : (busRead k s).written = s.written := rfl
@[simp] theorem busRead_program (k : AckKind) : (busRead k s).program = s.program := rfl
@[simp] theorem busRead_acks (k : AckKind) : (busRead k s).acks = s.acks := rfl
@[simp] theorem busRead_bytes (k : AckKind) : (busRead k s).bytes = s.bytes.tail := rfl
@[simp] theorem busRead_callsLeft (k : AckKind) : (busRead k s).callsLeft = s.callsLeft := rfl
@[simp] theorem busRead_draws (k : AckKind) : (busRead k s).draws = if s.bytes = [] then s.draws + 1 else s.draws := rfl
@[simp] theorem busRead_trace (k : AckKind) : (busRead k s).trace = s.trace ++ [.busRead k (nextByte s)] := rfl
@[simp] theorem busRead_cfg (k : AckKind) : (busRead k s).cfg = s.cfg := rfl

/-! ### writeByte -/

@[simp] theorem writeByte_cmd (sp : Space) (i : Nat) (b : Byte) : (writeByte sp i b s).cmd = s.cmd := by
  cases sp <;> rfl
@[simp] theorem writeByte_busy (sp : Space) (i : Nat) (b : Byte) : (writeByte sp i b s).busy = s.busy := by
  cases sp <;> rfl
@[simp] theorem writeByte_pktCount (sp : Space) (i : Nat) (b : Byte) : (writeByte sp i b s).pktCount = s.pktCount := by
  cases sp <;> rfl
@[simp] theorem writeByte_pktOpcode (sp : Space) (i : Nat) (b : Byte) : (writeByte sp i b s).pktOpcode = s.pktOpcode := by
  cases sp <;> rfl
@[simp] theorem writeByte_pktParam1 (sp : Space) (i : Nat) (b : Byte) : (writeByte sp i b s).pktParam1 = s.pktParam1 := by
  cases sp <;> rfl
@[simp] theorem writeByte_pktParam2 (sp : Space) (i : Nat) (b : Byte) : (writeByte sp i b s).pktParam2 = s.pktParam2 := by
  cases sp <;> rfl
@[simp] theorem writeByte_pktChecksum (sp : Space) (i : Nat) (b : Byte) : (writeByte sp i b s).pktChecksum = s.pktChecksum := by
  cases sp <;> rfl
@[simp] theorem writeByte_txfill (sp : Space) (i : Nat) (b : Byte) : (writeByte sp i b s).txfill = s.txfill := by
  cases sp <;> rfl
@[simp] theorem writeByte_frmLength (sp : Space) (i : Nat) (b : Byte) : (writeByte sp i b s).frmLength = s.frmLength := by
  cases sp <;> rfl
@[simp] theorem writeByte_frmValid (sp : Space) (i : Nat) (b : Byte) : (writeByte sp i b s).frmValid = s.frmValid := by
  cases sp <;> rfl
@[simp] theorem writeByte_frmChecksum (sp : Space) (i : Nat) (b : Byte) : (writeByte sp i b s).frmChecksum = s.frmChecksum := by
  cases sp <;> rfl
@[simp] theorem writeByte_calcReg (sp : Space) (i : Nat) (b : Byte) : (writeByte sp i b s).calcReg = s.calcReg := by
  cases sp <;> rfl
@[simp] theorem writeByte_rxbuf (sp : Space) (i : Nat) (b : Byte) : (writeByte sp i b s).rxbuf = if sp = .rxbuf then memWrite s.rxbuf i b else s.rxbuf := by
  cases sp <;> rfl
@[simp] theorem writeByte_resKind (sp : Space) (i : Nat) (b : Byte) : (writeByte sp i b s).resKind = s.resKind := by
  cases sp <;> rfl
@[simp] theorem writeByte_resCode (sp : Space) (i : Nat) (b : Byte) : (writeByte sp i b s).resCode = s.resCode := by
  cases sp <;> rfl
@[simp] theorem writeByte_infoRfu (sp : Space) (i : Nat) (b : Byte) : (writeByte sp i b s).infoRfu = s.infoRfu := by
  cases sp <;> rfl
@[simp] theorem writeByte_infoDevid (sp : Space) (i : Nat) (b : Byte) : (writeByte sp i b s).infoDevid = s.infoDevid := by
  cases sp <;> rfl
@[simp] theorem writeByte_infoSilid (sp : Space) (i : Nat) (b : Byte) : (writeByte sp i b s).infoSilid = s.infoSilid := by
  cases sp <;> rfl
@[simp] theorem writeByte_infoRev (sp : Space) (i : Nat) (b : Byte) : (writeByte sp i b s).infoRev = s.infoRev := by
  cases sp <;> rfl
@[simp] theorem writeByte_rnd (sp : Space) (i : Nat) (b : Byte) : (writeByte sp i b s).rnd = if sp = .rnd then memWrite s.rnd i b else s.rnd := by
  cases sp <;> rfl
@[simp] theorem writeByte_ser (sp : Space) (i : Nat) (b : Byte) : (writeByte sp i b s).ser = if sp = .ser then memWrite s.ser i b else s.ser := by
  cases sp <;> rfl
@[simp] theorem writeByte_phase (sp : Space) (i : Nat) (b : Byte) : (writeByte sp i b s).phase = s.phase := by
  cases sp <;> rfl
@[simp] theorem writeByte_idx (sp : Space) (i : Nat) (b : Byte) : (writeByte sp i b s).idx = s.idx := by
  cases sp <;> rfl
@[simp] theorem writeByte_eng (sp : Space) (i : Nat) (b : Byte) : (writeByte sp i b s).eng = s.eng := by
  cases sp <;> rfl
@[simp] theorem writeByte_txn (sp : Space) (i : Nat) (b : Byte) : (writeByte sp i b s).txn = s.txn := by
  cases sp <;> rfl
@[simp] theorem writeByte_written (sp : Space) (i : Nat) (b : Byte) : (writeByte sp i b s).written = s.written := by
  cases sp <;> rfl
@[simp] theorem writeByte_program (sp : Space) (i : Nat) (b : Byte) : (writeByte sp i b s).program = s.program := by
  cases sp <;> rfl
@[simp] theorem writeByte_acks (sp : Space) (i : Nat) (b : Byte) : (writeByte sp i b s).acks = s.acks := by
  cases sp <;> rfl
@[simp] theorem writeByte_bytes (sp : Space) (i : Nat) (b : Byte) : (writeByte sp i b s).bytes = s.bytes := by
  cases sp <;> rfl
@[simp] theorem writeByte_callsLeft (sp : Space) (i : Nat) (b : Byte) : (writeByte sp i b s).callsLeft = s.callsLeft := by
  cases sp <;> rfl
@[simp] theorem writeByte_draws (sp : Space) (i : Nat) (b : Byte) : (writeByte sp i b s).draws = s.draws := by
  cases sp <;> rfl
@[simp] theorem writeByte_trace (sp : Space) (i : Nat) (b : Byte) : (writeByte sp i b s).trace = s.trace := by
  cases sp <;> rfl
@[simp] theorem writeByte_cfg (sp : Space) (i : Nat) (b : Byte) : (writeByte sp i b s).cfg = s.cfg := by
  cases sp <;> rfl

end Sys2Proof.Machine
end

