-- ==== Sys2Proof/Laws/Memory.lean ====
section
/-! SUPPORT. The buffers: a read after a write, and the canonical form that every buffer operation keeps. -/

namespace Sys2Proof.Machine

@[simp] theorem memRead_nil (i : Nat) : memRead [] i = none := rfl

/-- A byte just written reads back. -/
@[simp] theorem memRead_memWrite_same (m : Memory) (i : Nat) (b : Byte) : memRead (memWrite m i b) i = some b := by
  induction m with
  | nil => simp [memWrite, memRead]
  | cons c rest ih =>
    simp only [memWrite]
    split
    · simp [memRead]
    · split
      · simp [memRead]
      · rename_i h1 h2
        have : ¬ c.1 = i := fun h => h2 h.symm
        simp [memRead, this, ih]

/-- A write leaves every other index alone. -/
theorem memRead_memWrite_ne (m : Memory) (i j : Nat) (b : Byte) (h : j ≠ i) :
    memRead (memWrite m i b) j = memRead m j := by
  have h' : ¬ i = j := fun e => h e.symm
  induction m with
  | nil => simp [memWrite, memRead, h']
  | cons c rest ih =>
    simp only [memWrite]
    split
    · simp [memRead, h']
    · split
      · rename_i h1 h2
        have : ¬ c.1 = j := fun e => h (e.symm.trans h2.symm)
        simp [memRead, h', this]
      · simp [memRead, ih]

/-- The indices listed after a write. -/
theorem mem_memWrite {m : Memory} {i : Nat} {b : Byte} {c : Host.Cell} (h : c ∈ memWrite m i b) :
    c = (i, b) ∨ c ∈ m := by
  induction m with
  | nil => simpa [memWrite] using h
  | cons d rest ih =>
    simp only [memWrite] at h
    split at h
    · simpa using h
    · split at h
      · rcases List.mem_cons.1 h with h | h
        · exact .inl h
        · exact .inr (List.mem_cons_of_mem _ h)
      · rcases List.mem_cons.1 h with h | h
        · exact .inr (h ▸ List.mem_cons_self)
        · exact (ih h).imp id (List.mem_cons_of_mem _)

/-- A write keeps the canonical form. -/
theorem memWrite_wf {m : Memory} (h : m.wf) (i : Nat) (b : Byte) : Memory.wf (memWrite m i b) := by
  induction m with
  | nil => simp [memWrite, Memory.wf]
  | cons c rest ih =>
    obtain ⟨hc, hr⟩ := List.pairwise_cons.1 h
    simp only [memWrite]
    split
    · rename_i hi
      refine List.pairwise_cons.2 ⟨fun d hd => ?_, h⟩
      rcases List.mem_cons.1 hd with rfl | hd
      · exact hi
      · exact Nat.lt_trans hi (hc d hd)
    · split
      · rename_i h1 h2
        exact List.pairwise_cons.2 ⟨fun d hd => h2 ▸ hc d hd, hr⟩
      · rename_i h1 h2
        refine List.pairwise_cons.2 ⟨fun d hd => ?_, ih hr⟩
        rcases mem_memWrite hd with rfl | hd
        · exact Nat.lt_of_le_of_ne (Nat.not_lt.1 h1) (fun e => h2 e.symm)
        · exact hc d hd

/-- A write inside a bound keeps every listed index inside it. -/
theorem memWrite_below {m : Memory} {n i : Nat} (h : ∀ c ∈ m, c.1 < n) (hi : i < n) (b : Byte) :
    ∀ c ∈ memWrite m i b, c.1 < n := by
  intro c hc
  rcases mem_memWrite hc with rfl | hc
  · exact hi
  · exact h c hc

/-- The buffer a store changes, and only that one. -/
theorem buffer_writeByte (sp sp' : Space) (i : Nat) (b : Byte) (s : State) :
    buffer sp' (writeByte sp i b s) = if sp' = sp then memWrite (buffer sp s) i b else buffer sp' s := by
  cases sp <;> cases sp' <;> rfl

/-- What a step reads after a store. -/
theorem readByte_writeByte (sp sp' : Space) (i j : Nat) (b : Byte) (s : State) :
    readByte sp' j (writeByte sp i b s) = if sp' = sp ∧ j = i then b else readByte sp' j s := by
  simp only [readByte, buffer_writeByte]
  by_cases h : sp' = sp
  · subst h
    by_cases hj : j = i
    · subst hj; simp
    · simp [hj, memRead_memWrite_ne _ _ _ _ hj]
  · simp [h]

/-- What a step reads depends on the buffer alone. -/
theorem readByte_congr {sp : Space} {s t : State} (h : buffer sp s = buffer sp t) (i : Nat) :
    readByte sp i s = readByte sp i t := by
  simp [readByte, h]

/-- A store inside its buffer keeps the buffers canonical and inside their sizes. -/
theorem buffersOk_writeByte {sp : Space} {i : Nat} {b : Byte} {s : State} (h : BuffersOk s) (hi : i < spaceSize s.cfg sp) :
    BuffersOk (writeByte sp i b s) := by
  intro sp'
  rw [buffer_writeByte, writeByte_cfg]
  by_cases e : sp' = sp
  · subst e
    simp only [if_true]
    exact ⟨memWrite_wf (h sp').1 i b, memWrite_below (h sp').2 hi b⟩
  · simp only [e, if_false]
    exact h sp'

/-- Canonical buffers depend on the buffers and the configuration alone. -/
theorem buffersOk_congr {s t : State} (h : BuffersOk s) (e1 : t.rxbuf = s.rxbuf) (e2 : t.rnd = s.rnd)
    (e3 : t.ser = s.ser) (e4 : t.cfg = s.cfg) : BuffersOk t := by
  intro sp
  cases sp
  · simpa only [buffer, e1, e4] using h .rxbuf
  · simpa only [buffer, e2, e4] using h .rnd
  · simpa only [buffer, e3, e4] using h .ser

/-- The fields a payload copy leaves alone: all but the buffer it writes. -/
theorem copyPayload_frame (dst : Space) (n : Nat) (s : State) :
    ∃ m : Memory, copyPayload dst n s = match dst with
      | .rxbuf => { s with rxbuf := m }
      | .rnd => { s with rnd := m }
      | .ser => { s with ser := m } := by
  induction n with
  | zero => cases dst <;> exact ⟨_, rfl⟩
  | succ k ih =>
    obtain ⟨m, hm⟩ := ih
    simp only [copyPayload]
    rw [hm]
    cases dst <;> exact ⟨_, rfl⟩

/-- A payload copy leaves the configuration. -/
@[simp] theorem copyPayload_cfg (dst : Space) (n : Nat) (s : State) : (copyPayload dst n s).cfg = s.cfg := by
  induction n with
  | zero => rfl
  | succ k ih => simp [copyPayload, ih]

/-- A copy to `RND` changes `RND` only. -/
theorem copyPayload_rnd (n : Nat) (s : State) : ∃ m : Memory, copyPayload .rnd n s = { s with rnd := m } :=
  copyPayload_frame .rnd n s

/-- A copy to `SER` changes `SER` only. -/
theorem copyPayload_ser (n : Nat) (s : State) : ∃ m : Memory, copyPayload .ser n s = { s with ser := m } :=
  copyPayload_frame .ser n s

/-- What a copy to another buffer leaves in it. -/
theorem memRead_copyPayload {dst : Space} (hd : dst ≠ .rxbuf) (n j : Nat) (s : State) :
    memRead (buffer dst (copyPayload dst n s)) j =
      if j < n then some (readByte .rxbuf j s) else memRead (buffer dst s) j := by
  induction n with
  | zero => simp [copyPayload]
  | succ k ih =>
    have hrx : buffer .rxbuf (copyPayload dst k s) = buffer .rxbuf s := by
      obtain ⟨m, hm⟩ := copyPayload_frame dst k s
      rw [hm]
      cases dst
      · exact absurd rfl hd
      · rfl
      · rfl
    simp only [copyPayload, buffer_writeByte, if_true]
    by_cases hj : j = k
    · subst hj
      simp [readByte_congr hrx]
    · rw [memRead_memWrite_ne _ _ _ _ hj, ih]
      have : (j < k + 1) ↔ (j < k) := by omega
      simp [this]

/-- A copy inside the buffer's size keeps the buffers canonical. -/
theorem buffersOk_copyPayload {dst : Space} {n : Nat} {s : State} (h : BuffersOk s) (hn : n ≤ spaceSize s.cfg dst) :
    BuffersOk (copyPayload dst n s) := by
  induction n with
  | zero => exact h
  | succ k ih => exact buffersOk_writeByte (ih (by omega)) (by rw [copyPayload_cfg]; omega)

/-- The buffers of the reset state are canonical. -/
theorem reset_buffersOk : BuffersOk State.reset := by
  intro sp
  cases sp <;> simp [buffer, State.reset, Memory.wf]

/-! ### Host reads -/

/-- A host read of a byte of a register file answers what a step reads there (10_state.md R24). -/
theorem readBuffer_inside {sp : Space} {i : Nat} {s : State} (h : i < spaceSize s.cfg sp) :
    readBuffer sp i s = .ok ((readByte sp i s).setWidth 16) := if_pos h

/-- An index outside the register file names no register (20_memory.md R42). -/
theorem readBuffer_outside {sp : Space} {i : Nat} {s : State} (h : spaceSize s.cfg sp ≤ i) :
    readBuffer sp i s = .error .noSuchRegister := if_neg (Nat.not_lt.2 h)

/-- A register that holds a specified value reads as that value. -/
@[simp] theorem registerValue_specified {n : Nat} (number : Nat) (v : BitVec n) (s : State) :
    registerValue number true v s = v.setWidth 16 := rfl

/-- A register that holds none reads as a free value of its width (10_state.md R31). -/
@[simp] theorem registerValue_unspecified {n : Nat} (number : Nat) (v : BitVec n) (s : State) :
    registerValue number false v s =
      ((Config.unspecified number s.draws s.trace.length).setWidth n).setWidth 16 := rfl

/-- While `BUSY = 0` a host read answers by the register (10_state.md R24). -/
theorem hostRead_idle {s : State} (h : s.busy = false) (r : HostReg) : hostRead r s = readIdle r s := by
  unfold hostRead
  split
  · rename_i e; subst e; rfl
  · simp [h]

end Sys2Proof.Machine
end

