-- ==== Sys2Proof/Laws/Ops.lean ====
section
/-! SUPPORT. What each shared operation can do, said once: a call of a primitive, a write of TRANSMIT, the issue of a word,
and the step that an operation makes in each phase. -/

namespace Sys2Proof.Machine

/-! ### Calls of primitives -/

/-- Where no limit is set on the calls that return, none is counted. -/
@[simp] theorem called_none {s : State} (h : s.callsLeft = none) : called s = s := by
  cases s
  simp_all [called]

/-- The primitive returns: the step acts. -/
theorem withCall_returns {s : State} (act : State → Answer) (h : s.callsLeft ≠ some 0) :
    withCall act s = act (called s) := by
  simp [withCall, h]

/-- Every primitive returns: the step acts on the state as it is. -/
theorem withCall_none {s : State} (act : State → Answer) (h : s.callsLeft = none) : withCall act s = act s := by
  simp [withCall, h]

/-- The primitive never returns: nothing changes (93 U9). -/
theorem withCall_stuck {s : State} (act : State → Answer) (h : s.callsLeft = some 0) : withCall act s = .next s := by
  simp [withCall, h]

/-- What a step that calls a primitive can answer. -/
theorem withCall_next {act : State → Answer} {s t : State} (h : withCall act s = .next t) :
    (s.callsLeft = some 0 ∧ t = s) ∨ (s.callsLeft ≠ some 0 ∧ act (called s) = .next t) := by
  by_cases hc : s.callsLeft = some 0
  · rw [withCall_stuck act hc, Host.Outcome.next.injEq] at h
    exact .inl ⟨hc, h.symm⟩
  · exact .inr ⟨hc, by rwa [withCall_returns act hc] at h⟩

/-- What one write of TRANSMIT can answer: its own continuation after a good write, or the abort phase. -/
theorem writeOrAbort_next {b : Byte} {onOk : State → Answer} {s t : State} (h : writeOrAbort b onOk s = .next t) :
    (nextAck s = .ok ∧ onOk (busWrite b s) = .next t) ∨
      (nextAck s = .busError ∧ t = goto .txAbort (busWrite b s)) := by
  unfold writeOrAbort at h
  split at h
  · exact .inl ⟨by assumption, h⟩
  · simp only [Host.Outcome.next.injEq] at h
    exact .inr ⟨by assumption, h.symm⟩

/-- A write the script answers with `ok`. -/
theorem nextAck_cons {s : State} {a : BusResult} {rest : List BusResult} (h : s.acks = a :: rest) : nextAck s = a := by
  simp [nextAck, h]

/-- A read the script answers. -/
theorem nextByte_cons {s : State} {b : Byte} {rest : List Byte} (h : s.bytes = b :: rest) : nextByte s = b := by
  simp [nextByte, h]

/-! ### Words -/

/-- A legal word issued while `BUSY = 0` is accepted (44_operations.md R138). -/
theorem issue_legal {w : Word} {i : Instr} {s : State} (hb : s.busy = false) (hw : decode w = .ok i) :
    issue w s = accept w s := by
  simp [issue, hb, hw]

/-- An illegal word issued while `BUSY = 0` is rejected (60_exceptions.md R160). -/
theorem issue_illegal {w : Word} {e : Illegal} {s : State} (hb : s.busy = false) (hw : decode w = .error e) :
    issue w s = reject s := by
  simp [issue, hb, hw]

/-! ### The checksum -/

@[simp] theorem engInit_fed (w : Word) : (engInit w).fed = [] := rfl
@[simp] theorem engInit_seed (w : Word) : (engInit w).seed = w := rfl
@[simp] theorem engUpdate_fed (e : EngineState) (b : Byte) : (engUpdate e b).fed = e.fed ++ [b] := rfl
@[simp] theorem engUpdate_seed (e : EngineState) (b : Byte) : (engUpdate e b).seed = e.seed := rfl

/-- Feeding a byte sequence appends it. -/
theorem foldl_engUpdate (bs : List Byte) (e : EngineState) :
    bs.foldl engUpdate e = { seed := e.seed, fed := e.fed ++ bs } := by
  induction bs generalizing e with
  | nil => simp
  | cons b rest ih => simp [ih]

/-- `CRC` of a byte sequence is the result of the engine that was fed it (40_checksum_sequencer.md R90). -/
theorem crcOf_eq (c : Params) (bs : List Byte) : crcOf c bs = engResult c { seed := c.crcSeed, fed := bs } := by
  simp [crcOf, foldl_engUpdate, engInit]

/-- The value `CrcResult()` returns when the engine has been fed a known sequence. -/
theorem crcValue_eq {s : State} {bs : List Byte} (h : s.eng = { seed := s.cfg.crcSeed, fed := bs }) :
    crcValue s = crcOf s.cfg bs := by
  simp [crcValue, crcOf_eq, h]

/-! ### The step of an operation -/

/-- BUILD of an operation. -/
def buildOf (i : Instr) : State → State :=
  match i with
  | .init => buildInit
  | .selftestDrbg => buildSelftestDrbg
  | .selftestSha => buildSelftestSha
  | .selftestDrbgSha => buildSelftestDrbgSha
  | .info => buildInfo
  | .random n => buildRandom n
  | .serial => buildSerial

/-- What the success arm of an operation writes; SELFTEST and INIT have none. -/
def deliverOf (i : Instr) : State → State :=
  match i with
  | .init => id
  | .selftestDrbg => id
  | .selftestSha => id
  | .selftestDrbgSha => id
  | .info => deliverInfo
  | .random _ => deliverRandom
  | .serial => deliverSerial

/-- Every operation's step is the phase table with its own constants. -/
theorem exec_eq (i : Instr) (s : State) :
    exec i s = operationStep (encode i) (buildOf i) (settleOf s.cfg i) (classifyFrame (expectedOf s.cfg i) (deliverOf i))
      (afterOf i) s := by
  cases i <;> rfl

/-- BUILD writes the operation's row of 30_encoding.md R67. -/
theorem buildOf_eq (i : Instr) (s : State) :
    buildOf i s = buildPacket (opcodeOf s.cfg i) (param1Of s.cfg i) (param2Of s.cfg i) (fillerOf i) s := by
  cases i <;> rfl

section Rows
variable {i : Instr} {s : State}

theorem exec_idle (h : s.phase = .idle) : exec i s = .next (issue (encode i) s) := by
  rw [exec_eq]; simp only [operationStep, h]
theorem exec_build (h : s.phase = .build) : exec i s = .next (goto .txCrcInit (buildOf i s)) := by
  rw [exec_eq]; simp only [operationStep, h]
theorem exec_txCrcInit (h : s.phase = .txCrcInit) : exec i s = rowTxCrcInit s := by
  rw [exec_eq]; simp only [operationStep, h]
theorem exec_txStart (h : s.phase = .txStart) : exec i s = rowTxStart s := by
  rw [exec_eq]; simp only [operationStep, h]
theorem exec_txAddr (h : s.phase = .txAddr) : exec i s = rowTxAddr s := by
  rw [exec_eq]; simp only [operationStep, h]
theorem exec_txExec (h : s.phase = .txExec) : exec i s = rowTxExec s := by
  rw [exec_eq]; simp only [operationStep, h]
theorem exec_txHdrUpd (h : s.phase = .txHdrUpd) : exec i s = rowTxHdrUpd s := by
  rw [exec_eq]; simp only [operationStep, h]
theorem exec_txHdrWr (h : s.phase = .txHdrWr) : exec i s = rowTxHdrWr s := by
  rw [exec_eq]; simp only [operationStep, h]
theorem exec_txFillUpd (h : s.phase = .txFillUpd) : exec i s = rowTxFillUpd s := by
  rw [exec_eq]; simp only [operationStep, h]
theorem exec_txFillWr (h : s.phase = .txFillWr) : exec i s = rowTxFillWr s := by
  rw [exec_eq]; simp only [operationStep, h]
theorem exec_txCrcRes (h : s.phase = .txCrcRes) : exec i s = rowTxCrcRes s := by
  rw [exec_eq]; simp only [operationStep, h]
theorem exec_txCkLo (h : s.phase = .txCkLo) : exec i s = rowTxCkLo s := by
  rw [exec_eq]; simp only [operationStep, h]
theorem exec_txCkHi (h : s.phase = .txCkHi) : exec i s = rowTxCkHi s := by
  rw [exec_eq]; simp only [operationStep, h]
theorem exec_txStop (h : s.phase = .txStop) : exec i s = rowTxStop s := by
  rw [exec_eq]; simp only [operationStep, h]
theorem exec_txAbort (h : s.phase = .txAbort) : exec i s = rowTxAbort (afterOf i) s := by
  rw [exec_eq]; simp only [operationStep, h]
theorem exec_wait (h : s.phase = .wait) : exec i s = rowWait (settleOf s.cfg i) s := by
  rw [exec_eq]; simp only [operationStep, h]
theorem exec_rxCrcInit (h : s.phase = .rxCrcInit) : exec i s = rowRxCrcInit s := by
  rw [exec_eq]; simp only [operationStep, h]
theorem exec_rxStart (h : s.phase = .rxStart) : exec i s = rowRxStart s := by
  rw [exec_eq]; simp only [operationStep, h]
theorem exec_rxAddr (h : s.phase = .rxAddr) : exec i s = rowRxAddr s := by
  rw [exec_eq]; simp only [operationStep, h]
theorem exec_rxLenRd (h : s.phase = .rxLenRd) : exec i s = rowRxLenRd s := by
  rw [exec_eq]; simp only [operationStep, h]
theorem exec_rxLenUpd (h : s.phase = .rxLenUpd) : exec i s = rowRxLenUpd s := by
  rw [exec_eq]; simp only [operationStep, h]
theorem exec_rxPayRd (h : s.phase = .rxPayRd) : exec i s = rowRxPayRd s := by
  rw [exec_eq]; simp only [operationStep, h]
theorem exec_rxPayUpd (h : s.phase = .rxPayUpd) : exec i s = rowRxPayUpd s := by
  rw [exec_eq]; simp only [operationStep, h]
theorem exec_rxCkLo (h : s.phase = .rxCkLo) : exec i s = rowRxCkLo s := by
  rw [exec_eq]; simp only [operationStep, h]
theorem exec_rxCkHi (h : s.phase = .rxCkHi) : exec i s = rowRxCkHi s := by
  rw [exec_eq]; simp only [operationStep, h]
theorem exec_rxStop (h : s.phase = .rxStop) : exec i s = rowRxStop s := by
  rw [exec_eq]; simp only [operationStep, h]
theorem exec_rxCrcRes (h : s.phase = .rxCrcRes) : exec i s = rowRxCrcRes s := by
  rw [exec_eq]; simp only [operationStep, h]
theorem exec_classify (h : s.phase = .classify) :
    exec i s = .next (goto (afterOf i) (classifyFrame (expectedOf s.cfg i) (deliverOf i) s)) := by
  rw [exec_eq]; simp only [operationStep, h]
theorem exec_initmap (h : s.phase = .initmap) : exec i s = .next (goto .done (initMap s)) := by
  rw [exec_eq]; simp only [operationStep, h]
theorem exec_done (h : s.phase = .done) : exec i s = .next (complete s) := by
  rw [exec_eq]; simp only [operationStep, h]

/-! What each row can answer, besides leaving everything as it is because its primitive never returns. -/

/-- The next states of a busy operation, row by row: `exec i s` in a busy phase answers `next t` only so. `u` is the state
with one primitive call counted. -/
inductive RowStep (i : Instr) (s : State) : State → Prop where
  | stuck (hc : s.callsLeft = some 0) (hp : callsPrimitive s.phase = true) : RowStep i s s
  | build (hp : s.phase = .build) : RowStep i s (goto .txCrcInit (buildOf i s))
  | txCrcInit (hp : s.phase = .txCrcInit) (hc : s.callsLeft ≠ some 0) : RowStep i s (goto .txStart (crcInit (called s)))
  | txStart (hp : s.phase = .txStart) (hc : s.callsLeft ≠ some 0) : RowStep i s (goto .txAddr (busStart (called s)))
  | txAddr (hp : s.phase = .txAddr) (hc : s.callsLeft ≠ some 0) :
      RowStep i s (goto .txExec (busAddress .write (called s)))
  | txExec (hp : s.phase = .txExec) (hc : s.callsLeft ≠ some 0) (ha : nextAck s = .ok) :
      RowStep i s (goto .txHdrUpd (busWrite s.cfg.waExecute (setIdx 0#8 (called s))))
  | txExecFail (hp : s.phase = .txExec) (hc : s.callsLeft ≠ some 0) (ha : nextAck s = .busError) :
      RowStep i s (goto .txAbort (busWrite s.cfg.waExecute (setIdx 0#8 (called s))))
  | txHdrUpd (b : Byte) (hp : s.phase = .txHdrUpd) (hc : s.callsLeft ≠ some 0) (hb : headerByte s = some b) :
      RowStep i s (goto .txHdrWr (crcUpdate b (called s)))
  | txHdrWrNext (b : Byte) (hp : s.phase = .txHdrWr) (hc : s.callsLeft ≠ some 0) (hb : headerByte s = some b)
      (ha : nextAck s = .ok) (hi : s.idx.toNat < 4) :
      RowStep i s (goto .txHdrUpd (setIdx (s.idx + 1#8) (busWrite b (called s))))
  | txHdrWrFill (b : Byte) (hp : s.phase = .txHdrWr) (hc : s.callsLeft ≠ some 0) (hb : headerByte s = some b)
      (ha : nextAck s = .ok) (hi : ¬s.idx.toNat < 4) (hf : s.txfill.toNat > 0) :
      RowStep i s (goto .txFillUpd (setIdx 0#8 (busWrite b (called s))))
  | txHdrWrLast (b : Byte) (hp : s.phase = .txHdrWr) (hc : s.callsLeft ≠ some 0) (hb : headerByte s = some b)
      (ha : nextAck s = .ok) (hi : ¬s.idx.toNat < 4) (hf : ¬s.txfill.toNat > 0) :
      RowStep i s (goto .txCrcRes (setIdx 0#8 (busWrite b (called s))))
  | txHdrWrFail (b : Byte) (hp : s.phase = .txHdrWr) (hc : s.callsLeft ≠ some 0) (hb : headerByte s = some b)
      (ha : nextAck s = .busError) : RowStep i s (goto .txAbort (busWrite b (called s)))
  | txFillUpd (hp : s.phase = .txFillUpd) (hc : s.callsLeft ≠ some 0) :
      RowStep i s (goto .txFillWr (crcUpdate s.cfg.filler (called s)))
  | txFillWrNext (hp : s.phase = .txFillWr) (hc : s.callsLeft ≠ some 0) (ha : nextAck s = .ok)
      (hi : s.idx.toNat + 1 < s.txfill.toNat) :
      RowStep i s (goto .txFillUpd (setIdx (s.idx + 1#8) (busWrite s.cfg.filler (called s))))
  | txFillWrLast (hp : s.phase = .txFillWr) (hc : s.callsLeft ≠ some 0) (ha : nextAck s = .ok)
      (hi : s.idx.toNat + 1 = s.txfill.toNat) :
      RowStep i s (goto .txCrcRes (setIdx (s.idx + 1#8) (busWrite s.cfg.filler (called s))))
  | txFillWrFail (hp : s.phase = .txFillWr) (hc : s.callsLeft ≠ some 0) (ha : nextAck s = .busError) :
      RowStep i s (goto .txAbort (busWrite s.cfg.filler (called s)))
  | txCrcRes (hp : s.phase = .txCrcRes) (hc : s.callsLeft ≠ some 0) :
      RowStep i s (goto .txCkLo (setPktChecksum (crcValue s) (crcResult (called s))))
  | txCkLo (hp : s.phase = .txCkLo) (hc : s.callsLeft ≠ some 0) (ha : nextAck s = .ok) :
      RowStep i s (goto .txCkHi (busWrite (loByte s.pktChecksum) (called s)))
  | txCkLoFail (hp : s.phase = .txCkLo) (hc : s.callsLeft ≠ some 0) (ha : nextAck s = .busError) :
      RowStep i s (goto .txAbort (busWrite (loByte s.pktChecksum) (called s)))
  | txCkHi (hp : s.phase = .txCkHi) (hc : s.callsLeft ≠ some 0) (ha : nextAck s = .ok) :
      RowStep i s (goto .txStop (busWrite (hiByte s.pktChecksum) (called s)))
  | txCkHiFail (hp : s.phase = .txCkHi) (hc : s.callsLeft ≠ some 0) (ha : nextAck s = .busError) :
      RowStep i s (goto .txAbort (busWrite (hiByte s.pktChecksum) (called s)))
  | txStop (hp : s.phase = .txStop) (hc : s.callsLeft ≠ some 0) : RowStep i s (goto .wait (busStop (called s)))
  | txAbort (hp : s.phase = .txAbort) (hc : s.callsLeft ≠ some 0) :
      RowStep i s (goto (afterOf i) (raiseBusError (called s)))
  | wait (hp : s.phase = .wait) (hc : s.callsLeft ≠ some 0) :
      RowStep i s (goto .rxCrcInit (delayMs (settleOf s.cfg i) (called s)))
  | rxCrcInit (hp : s.phase = .rxCrcInit) (hc : s.callsLeft ≠ some 0) : RowStep i s (goto .rxStart (crcInit (called s)))
  | rxStart (hp : s.phase = .rxStart) (hc : s.callsLeft ≠ some 0) : RowStep i s (goto .rxAddr (busStart (called s)))
  | rxAddr (hp : s.phase = .rxAddr) (hc : s.callsLeft ≠ some 0) :
      RowStep i s (goto .rxLenRd (busAddress .read (called s)))
  | rxLenRd (hp : s.phase = .rxLenRd) (hc : s.callsLeft ≠ some 0) :
      RowStep i s (goto .rxLenUpd (setFrmLength (nextByte s) (busRead .ack (called s))))
  | rxLenUpdPay (hp : s.phase = .rxLenUpd) (hc : s.callsLeft ≠ some 0) (hm : payloadLen s > 0) :
      RowStep i s (goto .rxPayRd (setIdx 0#8 (crcUpdate s.frmLength (called s))))
  | rxLenUpdNone (hp : s.phase = .rxLenUpd) (hc : s.callsLeft ≠ some 0) (hm : ¬payloadLen s > 0) :
      RowStep i s (goto .rxCkLo (setIdx 0#8 (crcUpdate s.frmLength (called s))))
  | rxPayRd (hp : s.phase = .rxPayRd) (hc : s.callsLeft ≠ some 0) (hi : s.idx.toNat < s.cfg.rxbufSize) :
      RowStep i s (goto .rxPayUpd (writeByte .rxbuf s.idx.toNat (nextByte s) (busRead .ack (called s))))
  | rxPayUpdNext (hp : s.phase = .rxPayUpd) (hc : s.callsLeft ≠ some 0) (hi : s.idx.toNat < s.cfg.rxbufSize)
      (hm : s.idx.toNat + 1 < payloadLen s) :
      RowStep i s (goto .rxPayRd (setIdx (s.idx + 1#8) (crcUpdate (readByte .rxbuf s.idx.toNat s) (called s))))
  | rxPayUpdLast (hp : s.phase = .rxPayUpd) (hc : s.callsLeft ≠ some 0) (hi : s.idx.toNat < s.cfg.rxbufSize)
      (hm : ¬s.idx.toNat + 1 < payloadLen s) :
      RowStep i s (goto .rxCkLo (setIdx (s.idx + 1#8) (crcUpdate (readByte .rxbuf s.idx.toNat s) (called s))))
  | rxCkLo (hp : s.phase = .rxCkLo) (hc : s.callsLeft ≠ some 0) :
      RowStep i s (goto .rxCkHi (setFrmChecksumLo (nextByte s) (busRead .ack (called s))))
  | rxCkHi (hp : s.phase = .rxCkHi) (hc : s.callsLeft ≠ some 0) :
      RowStep i s (goto .rxStop (setFrmChecksumHi (nextByte s) (busRead .nack (called s))))
  | rxStop (hp : s.phase = .rxStop) (hc : s.callsLeft ≠ some 0) : RowStep i s (goto .rxCrcRes (busStop (called s)))
  | rxCrcRes (hp : s.phase = .rxCrcRes) (hc : s.callsLeft ≠ some 0) :
      RowStep i s (goto .classify (setCalc (crcValue s) (crcResult (called s))))
  | classify (hp : s.phase = .classify) :
      RowStep i s (goto (afterOf i) (classifyFrame (expectedOf s.cfg i) (deliverOf i) s))
  | initmap (hp : s.phase = .initmap) : RowStep i s (goto .done (initMap s))
  | done (hp : s.phase = .done) : RowStep i s (complete s)

/-- Everything a step of a busy operation can answer (10_state.md R32). -/
theorem exec_rowStep {i : Instr} {s t : State} (hp : s.phase ≠ .idle) (h : exec i s = .next t) : RowStep i s t := by
  have stuck : ∀ {p : Phase}, s.phase = p → callsPrimitive p = true → ∀ {act}, withCall act s = .next t →
      (∀ {t'}, s.callsLeft ≠ some 0 → act (called s) = .next t' → RowStep i s t') → RowStep i s t := by
    intro p hp hcp act hw k
    rcases withCall_next hw with ⟨hc, rfl⟩ | ⟨hc, hw⟩
    · exact .stuck hc (hp ▸ hcp)
    · exact k hc hw
  cases hph : s.phase with
  | idle => exact absurd hph hp
  | build => rw [exec_build hph] at h; cases h; exact .build hph
  | txCrcInit =>
    rw [exec_txCrcInit hph] at h
    exact stuck hph rfl h fun hc hw => by cases hw; exact .txCrcInit hph hc
  | txStart =>
    rw [exec_txStart hph] at h
    exact stuck hph rfl h fun hc hw => by cases hw; exact .txStart hph hc
  | txAddr =>
    rw [exec_txAddr hph] at h
    exact stuck hph rfl h fun hc hw => by cases hw; exact .txAddr hph hc
  | txExec =>
    rw [exec_txExec hph] at h
    refine stuck hph rfl h fun hc hw => ?_
    rcases writeOrAbort_next hw with ⟨ha, hw⟩ | ⟨ha, rfl⟩
    · cases hw; exact .txExec hph hc ha
    · exact .txExecFail hph hc ha
  | txHdrUpd =>
    rw [exec_txHdrUpd hph] at h
    unfold rowTxHdrUpd at h
    split at h
    · cases h
    · rename_i b hb
      exact stuck hph rfl h fun hc hw => by cases hw; exact .txHdrUpd b hph hc hb
  | txHdrWr =>
    rw [exec_txHdrWr hph] at h
    unfold rowTxHdrWr at h
    split at h
    · cases h
    · rename_i b hb
      refine stuck hph rfl h fun hc hw => ?_
      rcases writeOrAbort_next hw with ⟨ha, hw⟩ | ⟨ha, rfl⟩
      · unfold afterHeaderWrite at hw
        split at hw
        · cases hw; exact .txHdrWrNext b hph hc hb ha (by assumption)
        · split at hw
          · cases hw; exact .txHdrWrFill b hph hc hb ha (by assumption) (by assumption)
          · cases hw; exact .txHdrWrLast b hph hc hb ha (by assumption) (by assumption)
      · exact .txHdrWrFail b hph hc hb ha
  | txFillUpd =>
    rw [exec_txFillUpd hph] at h
    exact stuck hph rfl h fun hc hw => by cases hw; exact .txFillUpd hph hc
  | txFillWr =>
    rw [exec_txFillWr hph] at h
    refine stuck hph rfl h fun hc hw => ?_
    rcases writeOrAbort_next hw with ⟨ha, hw⟩ | ⟨ha, rfl⟩
    · unfold afterFillerWrite at hw
      split at hw
      · cases hw; exact .txFillWrNext hph hc ha (by assumption)
      · split at hw
        · cases hw; exact .txFillWrLast hph hc ha (by assumption)
        · cases hw
    · exact .txFillWrFail hph hc ha
  | txCrcRes =>
    rw [exec_txCrcRes hph] at h
    exact stuck hph rfl h fun hc hw => by cases hw; exact .txCrcRes hph hc
  | txCkLo =>
    rw [exec_txCkLo hph] at h
    refine stuck hph rfl h fun hc hw => ?_
    rcases writeOrAbort_next hw with ⟨ha, hw⟩ | ⟨ha, rfl⟩
    · cases hw; exact .txCkLo hph hc ha
    · exact .txCkLoFail hph hc ha
  | txCkHi =>
    rw [exec_txCkHi hph] at h
    refine stuck hph rfl h fun hc hw => ?_
    rcases writeOrAbort_next hw with ⟨ha, hw⟩ | ⟨ha, rfl⟩
    · cases hw; exact .txCkHi hph hc ha
    · exact .txCkHiFail hph hc ha
  | txStop =>
    rw [exec_txStop hph] at h
    exact stuck hph rfl h fun hc hw => by cases hw; exact .txStop hph hc
  | txAbort =>
    rw [exec_txAbort hph] at h
    exact stuck hph rfl h fun hc hw => by cases hw; exact .txAbort hph hc
  | wait =>
    rw [exec_wait hph] at h
    exact stuck hph rfl h fun hc hw => by cases hw; exact .wait hph hc
  | rxCrcInit =>
    rw [exec_rxCrcInit hph] at h
    exact stuck hph rfl h fun hc hw => by cases hw; exact .rxCrcInit hph hc
  | rxStart =>
    rw [exec_rxStart hph] at h
    exact stuck hph rfl h fun hc hw => by cases hw; exact .rxStart hph hc
  | rxAddr =>
    rw [exec_rxAddr hph] at h
    exact stuck hph rfl h fun hc hw => by cases hw; exact .rxAddr hph hc
  | rxLenRd =>
    rw [exec_rxLenRd hph] at h
    exact stuck hph rfl h fun hc hw => by cases hw; exact .rxLenRd hph hc
  | rxLenUpd =>
    rw [exec_rxLenUpd hph] at h
    refine stuck hph rfl h fun hc hw => ?_
    simp only [Host.Outcome.next.injEq] at hw
    subst hw
    by_cases hm : payloadLen s > 0
    · have hm' : payloadLen (called s) > 0 := hm
      rw [if_pos hm']; exact .rxLenUpdPay hph hc hm
    · have hm' : ¬payloadLen (called s) > 0 := hm
      rw [if_neg hm']; exact .rxLenUpdNone hph hc hm
  | rxPayRd =>
    rw [exec_rxPayRd hph] at h
    refine stuck hph rfl h fun hc hw => ?_
    split at hw
    · rename_i hi
      cases hw; exact .rxPayRd hph hc (of_decide_eq_true hi)
    · cases hw
  | rxPayUpd =>
    rw [exec_rxPayUpd hph] at h
    unfold rowRxPayUpd at h
    split at h
    · rename_i hi
      have hi' : s.idx.toNat < s.cfg.rxbufSize := of_decide_eq_true hi
      refine stuck hph rfl h fun hc hw => ?_
      simp only [Host.Outcome.next.injEq] at hw
      subst hw
      by_cases hm : s.idx.toNat + 1 < payloadLen s
      · have hm' : (called s).idx.toNat + 1 < payloadLen (called s) := hm
        rw [if_pos hm']; exact .rxPayUpdNext hph hc hi' hm
      · have hm' : ¬(called s).idx.toNat + 1 < payloadLen (called s) := hm
        rw [if_neg hm']; exact .rxPayUpdLast hph hc hi' hm
    · cases h
  | rxCkLo =>
    rw [exec_rxCkLo hph] at h
    exact stuck hph rfl h fun hc hw => by cases hw; exact .rxCkLo hph hc
  | rxCkHi =>
    rw [exec_rxCkHi hph] at h
    exact stuck hph rfl h fun hc hw => by cases hw; exact .rxCkHi hph hc
  | rxStop =>
    rw [exec_rxStop hph] at h
    exact stuck hph rfl h fun hc hw => by cases hw; exact .rxStop hph hc
  | rxCrcRes =>
    rw [exec_rxCrcRes hph] at h
    exact stuck hph rfl h fun hc hw => by cases hw; exact .rxCrcRes hph hc
  | classify => rw [exec_classify hph] at h; cases h; exact .classify hph
  | initmap => rw [exec_initmap hph] at h; cases h; exact .initmap hph
  | done => rw [exec_done hph] at h; cases h; exact .done hph

end Rows

/-! ### The machine's step -/

/-- In a busy phase the step is the running operation's (10_state.md R11). -/
theorem step_busy {s : State} {i : Instr} (hp : s.phase ≠ .idle) (hw : decode s.cmd = .ok i) : step s = exec i s := by
  have hc : commandWord s = some s.cmd := by
    unfold commandWord
    split
    · exact absurd (by assumption) hp
    · rfl
  have ht : takeWord s = s := by simp [takeWord, ready, hp]
  simp [step, hc, hw, ht]

/-- What a step can be: a wait, a word taken in `IDLE`, or a step of the running operation. -/
theorem step_cases (s : State) :
    (s.phase = .idle ∧ step s = .next s ∧ (s.busy = true ∨ s.program = [])) ∨
    (s.phase = .idle ∧ s.busy = false ∧ ∃ w rest, s.program = w :: rest ∧
      ((∃ i, decode w = .ok i ∧ step s = exec i (setProgram rest s)) ∨
        (∃ e, decode w = .error e ∧ step s = .next (reject (setProgram rest s))))) ∨
    (s.phase ≠ .idle ∧ ∃ i, decode s.cmd = .ok i ∧ step s = exec i s) ∨
    (s.phase ≠ .idle ∧ ∃ e, decode s.cmd = .error e ∧ step s = .fault .noOperation) := by
  by_cases hp : s.phase = .idle
  · cases hb : s.busy with
    | true => exact .inl ⟨hp, by simp [step, commandWord, hp, hb], .inl rfl⟩
    | false =>
      cases hw : s.program with
      | nil => exact .inl ⟨hp, by simp [step, commandWord, hp, hb, hw], .inr rfl⟩
      | cons w rest =>
        refine .inr (.inl ⟨hp, rfl, w, rest, rfl, ?_⟩)
        have ht : takeWord s = setProgram rest s := by simp [takeWord, ready, hp, hb, hw]
        have hc : commandWord s = some w := by simp [commandWord, hp, hb, hw]
        cases hd : decode w with
        | ok i => exact .inl ⟨i, rfl, by simp [step, hc, hd, ht]⟩
        | error e => exact .inr ⟨e, rfl, by simp [step, hc, hd, ht, undecodable, hp]⟩
  · have hc : commandWord s = some s.cmd := by
      unfold commandWord
      split
      · exact absurd (by assumption) hp
      · rfl
    cases hd : decode s.cmd with
    | ok i => exact .inr (.inr (.inl ⟨hp, i, rfl, step_busy hp hd⟩))
    | error e =>
      refine .inr (.inr (.inr ⟨hp, e, rfl, ?_⟩))
      have ht : takeWord s = s := by simp [takeWord, ready, hp]
      simp only [step, hc, hd, ht]
      unfold undecodable
      split
      · exact absurd (by assumption) hp
      · rfl

end Sys2Proof.Machine
end

