-- ==== Sys2Proof/Laws/Crc.lean ====
section
/-! SUPPORT. The reference engine detects every single flipped bit: `SINGLE_BIT_DETECT` (40_checksum_sequencer.md R97) is
a hypothesis that some configuration meets. -/

namespace Sys2Proof.Machine

/-- The mask of bit `k` has that bit and no other. -/
theorem mask_getLsbD : ∀ k < 8, ∀ i < 8, (1#8 <<< k).getLsbD i = decide (i = k) := by decide

section
variable {poly : Word} (hp : poly.getLsbD 0 = true)
include hp

/-- Bit 0 after one bit step says whether the polynomial was added. -/
theorem refBit_bit0 (e : Word) (d : Bool) : (refBit poly e d).getLsbD 0 = (d != e.getLsbD 15) := by
  unfold refBit
  split <;> simp_all

/-- One bit step loses nothing of the register. -/
theorem refBit_inj {e e' : Word} {d : Bool} (h : refBit poly e d = refBit poly e' d) : e = e' := by
  have h0 : (d != e.getLsbD 15) = (d != e'.getLsbD 15) := by rw [← refBit_bit0 hp, ← refBit_bit0 hp, h]
  have h15 : e.getLsbD 15 = e'.getLsbD 15 := by
    revert h0
    cases d <;> cases e.getLsbD 15 <;> cases e'.getLsbD 15 <;> simp
  have hs : e <<< 1 = e' <<< 1 := by
    unfold refBit at h
    rw [h15] at h
    split at h
    · exact (BitVec.xor_left_inj _).1 h
    · exact h
  apply BitVec.eq_of_getLsbD_eq
  intro i hi
  by_cases h1 : i = 15
  · rw [h1, h15]
  · have := congrArg (fun x : Word => x.getLsbD (i + 1)) hs
    simpa [BitVec.getLsbD_shiftLeft, show i + 1 < 16 by omega, ← BitVec.getLsbD_eq_getElem] using this

/-- A different data bit gives a different register. -/
theorem refBit_ne (e : Word) {d d' : Bool} (h : d ≠ d') : refBit poly e d ≠ refBit poly e d' := by
  intro he
  have : (d != e.getLsbD 15) = (d' != e.getLsbD 15) := by rw [← refBit_bit0 hp, ← refBit_bit0 hp, he]
  revert h this
  cases d <;> cases d' <;> cases e.getLsbD 15 <;> simp

/-- The bit steps of one byte lose nothing of the register. -/
theorem foldl_refBit_inj (b : Byte) (l : List Nat) {e e' : Word}
    (h : l.foldl (fun acc i => refBit poly acc (b.getLsbD i)) e = l.foldl (fun acc i => refBit poly acc (b.getLsbD i)) e') :
    e = e' := by
  induction l generalizing e e' with
  | nil => exact h
  | cons i rest ih => exact refBit_inj hp (ih h)

/-- `crc_update` loses nothing of the register. -/
theorem refUpdate_inj {e e' : Word} {b : Byte} (h : refUpdate poly e b = refUpdate poly e' b) : e = e' :=
  foldl_refBit_inj hp b _ h

/-- Two bytes that differ in one bit step of the list give different registers. -/
theorem foldl_refBit_ne {b b' : Byte} {k : Nat} (hk : b.getLsbD k ≠ b'.getLsbD k)
    (hs : ∀ i, i ≠ k → b.getLsbD i = b'.getLsbD i) {l : List Nat} (hl : l.Nodup) (hm : k ∈ l) (e : Word) :
    l.foldl (fun acc i => refBit poly acc (b.getLsbD i)) e ≠ l.foldl (fun acc i => refBit poly acc (b'.getLsbD i)) e := by
  induction l generalizing e with
  | nil => exact absurd hm (by simp)
  | cons i rest ih =>
    obtain ⟨hi, hr⟩ := List.nodup_cons.1 hl
    intro h
    simp only [List.foldl_cons] at h
    by_cases e1 : i = k
    · subst e1
      have same : ∀ (x : Word), rest.foldl (fun acc i => refBit poly acc (b'.getLsbD i)) x =
          rest.foldl (fun acc i => refBit poly acc (b.getLsbD i)) x := by
        intro x
        apply List.foldl_ext
        intro acc j hj
        rw [hs j (fun e2 => hi (e2 ▸ hj))]
      rw [same] at h
      exact refBit_ne hp e hk (foldl_refBit_inj hp b rest h)
    · rw [hs i e1] at h
      exact ih hr ((List.mem_cons.1 hm).resolve_left (fun e2 => e1 e2.symm)) _ h

/-- A byte with one bit flipped updates any register to another value. -/
theorem refUpdate_flip (e : Word) (b : Byte) {k : Nat} (hk : k < 8) :
    refUpdate poly e (b ^^^ (1#8 <<< k)) ≠ refUpdate poly e b := by
  refine foldl_refBit_ne hp (k := k) ?_ ?_ (by decide) (by simp; omega) e
  · rw [BitVec.getLsbD_xor, mask_getLsbD k hk k hk]
    cases b.getLsbD k <;> simp
  · intro i hi
    by_cases h8 : i < 8
    · rw [BitVec.getLsbD_xor, mask_getLsbD k hk i h8, decide_eq_false hi, Bool.xor_false]
    · rw [BitVec.getLsbD_of_ge _ _ (Nat.not_lt.1 h8), BitVec.getLsbD_of_ge _ _ (Nat.not_lt.1 h8)]

/-- A byte sequence loses nothing of the register. -/
theorem refCrc_inj (bs : List Byte) {e e' : Word} (h : refCrc poly e bs = refCrc poly e' bs) : e = e' := by
  induction bs generalizing e e' with
  | nil => exact h
  | cons b rest ih => exact refUpdate_inj hp (ih h)

/-- A sequence with one bit flipped has another checksum. -/
theorem refCrc_flip (bs : List Byte) {j k : Nat} (hj : j < bs.length) (hk : k < 8) (e : Word) :
    refCrc poly e (flipBit bs j k) ≠ refCrc poly e bs := by
  induction bs generalizing j e with
  | nil => exact absurd hj (by simp)
  | cons b rest ih =>
    cases j with
    | zero => exact fun h => refUpdate_flip hp e b hk (refCrc_inj hp rest h)
    | succ n => exact ih (Nat.lt_of_succ_lt_succ hj) (refUpdate poly e b)

end

/-- The reference engine has the property that R97 names, with any polynomial that has bit 0 set, as 0x8005 has. -/
theorem reference_singleBitDetect {c : Params} (h : c.engine = .reference) (hp : c.crcPoly.getLsbD 0 = true) :
    SingleBitDetect c := by
  intro bs j k _ hj hk
  simp only [crcOf_eq, engResult, h]
  exact refCrc_flip hp bs hj hk c.crcSeed

end Sys2Proof.Machine
end

