-- ==== Sys2Proof/Laws/PerInstr.lean ====
section
/-! SUPPORT. The command word of each operation, field by field (30_encoding.md R62): a statement about the instruction as
syntax, one lemma per constructor. -/

namespace Sys2Proof.Laws.CommandWord

/-- The fields of an operation's command word: the reserved field is 0, the operation code is one of 1 to 5, a variant
stands in a SELFTEST word only and is not 3, and the filler field holds the operation's filler count, which is 0 outside
RANDOM. -/
def Statement (i : Instr) : Prop :=
  hcReserved (encode i) = 0#3 ∧
  (hcOp (encode i)).toNat ∈ [1, 2, 3, 4, 5] ∧
  (hcVariant (encode i) ≠ 0#2 → hcOp (encode i) = 2#3) ∧
  hcVariant (encode i) ≠ 3#2 ∧
  hcFilln (encode i) = Machine.fillerOf i ∧
  (hcFilln (encode i) ≠ 0#8 → hcOp (encode i) = 4#3)

theorem init : Statement .init := by unfold Statement; decide
theorem selftestDrbg : Statement .selftestDrbg := by unfold Statement; decide
theorem selftestSha : Statement .selftestSha := by unfold Statement; decide
theorem selftestDrbgSha : Statement .selftestDrbgSha := by unfold Statement; decide
theorem info : Statement .info := by unfold Statement; decide
theorem random (n : Byte) : Statement (.random n) := by unfold Statement; revert n; decide
theorem serial : Statement .serial := by unfold Statement; decide

end Sys2Proof.Laws.CommandWord
end

