-- ==== Sys2Proof/Laws/Run.lean ====
section
/-! SUPPORT. What the classifier, the issue of a word and a step can do, by cases; runs of steps; and what the invariants
read of the state. -/

namespace Sys2Proof.Machine

/-! ### CLASSIFY and INITMAP -/

/-- The outcome CLASSIFY leaves (44_operations.md R132). -/
theorem classifyFrame_res (expected : Option Byte) (deliver : State → State) (s : State) :
    (s.frmValid = true ∧ s.frmLength = s.cfg.frameStd ∧
      classifyFrame expected deliver s = setRes .status (readByte .rxbuf 0 s) s) ∨
    (s.frmValid = true ∧ s.frmLength ≠ s.cfg.frameStd ∧ expected = some s.frmLength ∧
      classifyFrame expected deliver s = setRes .success s.cfg.stSuccess (deliver s)) ∨
    ((s.frmValid = false ∨ (s.frmLength ≠ s.cfg.frameStd ∧ expected ≠ some s.frmLength)) ∧
      classifyFrame expected deliver s = setRes .otherError s.cfg.stOtherError s) := by
  by_cases hv : s.frmValid = true
  · by_cases h4 : s.frmLength = s.cfg.frameStd
    · exact .inl ⟨hv, h4, if_pos ⟨hv, h4⟩⟩
    · by_cases he : expected = some s.frmLength
      · exact .inr (.inl ⟨hv, h4, he, (if_neg (fun h => h4 h.2)).trans (if_pos ⟨hv, he⟩)⟩)
      · exact .inr (.inr ⟨.inr ⟨h4, he⟩, (if_neg (fun h => h4 h.2)).trans (if_neg (fun h => he h.2))⟩)
  · exact .inr (.inr ⟨.inl (by simpa using hv), (if_neg (fun h => hv h.1)).trans (if_neg (fun h => hv h.1))⟩)

/-- What the success arm of an operation leaves alone: everything but its own data registers. -/
theorem deliverOf_frame (i : Instr) (s : State) :
    deliverOf i s = { s with
      infoRfu := (deliverOf i s).infoRfu
      infoDevid := (deliverOf i s).infoDevid
      infoSilid := (deliverOf i s).infoSilid
      infoRev := (deliverOf i s).infoRev
      written := { s.written with info := (deliverOf i s).written.info }
      rnd := (deliverOf i s).rnd
      ser := (deliverOf i s).ser } := by
  cases i with
  | random n =>
    obtain ⟨m, hm⟩ := copyPayload_rnd s.cfg.randomLen s
    simp only [deliverOf, deliverRandom]
    rw [hm]
  | serial =>
    obtain ⟨m, hm⟩ := copyPayload_ser serialLen s
    simp only [deliverOf, deliverSerial]
    rw [hm]
  | _ => rfl

/-- What CLASSIFY leaves alone: everything but the outcome and the data registers. -/
theorem classifyOf_frame (i : Instr) (s : State) :
    classifyFrame (expectedOf s.cfg i) (deliverOf i) s = { s with
      resKind := (classifyFrame (expectedOf s.cfg i) (deliverOf i) s).resKind
      resCode := (classifyFrame (expectedOf s.cfg i) (deliverOf i) s).resCode
      infoRfu := (classifyFrame (expectedOf s.cfg i) (deliverOf i) s).infoRfu
      infoDevid := (classifyFrame (expectedOf s.cfg i) (deliverOf i) s).infoDevid
      infoSilid := (classifyFrame (expectedOf s.cfg i) (deliverOf i) s).infoSilid
      infoRev := (classifyFrame (expectedOf s.cfg i) (deliverOf i) s).infoRev
      written := { s.written with info := (classifyFrame (expectedOf s.cfg i) (deliverOf i) s).written.info }
      rnd := (classifyFrame (expectedOf s.cfg i) (deliverOf i) s).rnd
      ser := (classifyFrame (expectedOf s.cfg i) (deliverOf i) s).ser } := by
  rcases classifyFrame_res (expectedOf s.cfg i) (deliverOf i) s with ⟨-, -, h⟩ | ⟨-, -, -, h⟩ | ⟨-, h⟩ <;> rw [h]
  · rfl
  · conv_lhs => rw [deliverOf_frame]
    rfl
  · rfl

/-- The success arm of an operation writes its own data registers only (44_operations.md R134 to R136). -/
theorem deliverOf_own (i : Instr) (s : State) :
    (i ≠ .info → (deliverOf i s).infoRfu = s.infoRfu ∧ (deliverOf i s).infoDevid = s.infoDevid ∧
      (deliverOf i s).infoSilid = s.infoSilid ∧ (deliverOf i s).infoRev = s.infoRev ∧
      (deliverOf i s).written = s.written) ∧
    ((∀ n, i ≠ .random n) → (deliverOf i s).rnd = s.rnd) ∧ (i ≠ .serial → (deliverOf i s).ser = s.ser) := by
  cases i with
  | random n =>
    obtain ⟨m, hm⟩ := copyPayload_rnd s.cfg.randomLen s
    simp [deliverOf, deliverRandom, hm]
  | serial =>
    obtain ⟨m, hm⟩ := copyPayload_ser serialLen s
    simp [deliverOf, deliverSerial, hm]
  | _ => simp [deliverOf, deliverInfo]

/-- CLASSIFY writes no data register but the operation's own (44_operations.md R132). -/
theorem classifyOf_own (i : Instr) (s : State) :
    (i ≠ .info →
      (classifyFrame (expectedOf s.cfg i) (deliverOf i) s).infoRfu = s.infoRfu ∧
      (classifyFrame (expectedOf s.cfg i) (deliverOf i) s).infoDevid = s.infoDevid ∧
      (classifyFrame (expectedOf s.cfg i) (deliverOf i) s).infoSilid = s.infoSilid ∧
      (classifyFrame (expectedOf s.cfg i) (deliverOf i) s).infoRev = s.infoRev ∧
      (classifyFrame (expectedOf s.cfg i) (deliverOf i) s).written = s.written) ∧
    ((∀ n, i ≠ .random n) → (classifyFrame (expectedOf s.cfg i) (deliverOf i) s).rnd = s.rnd) ∧
    (i ≠ .serial → (classifyFrame (expectedOf s.cfg i) (deliverOf i) s).ser = s.ser) := by
  rcases classifyFrame_res (expectedOf s.cfg i) (deliverOf i) s with ⟨-, -, h⟩ | ⟨-, -, -, h⟩ | ⟨-, h⟩ <;> rw [h]
  · simp
  · simpa using deliverOf_own i s
  · simp

section
variable (i : Instr) (s : State)

@[simp] theorem classifyOf_cmd : (classifyFrame (expectedOf s.cfg i) (deliverOf i) s).cmd = s.cmd := by rw [classifyOf_frame]
@[simp] theorem classifyOf_busy : (classifyFrame (expectedOf s.cfg i) (deliverOf i) s).busy = s.busy := by rw [classifyOf_frame]
@[simp] theorem classifyOf_pktCount : (classifyFrame (expectedOf s.cfg i) (deliverOf i) s).pktCount = s.pktCount := by
  rw [classifyOf_frame]
@[simp] theorem classifyOf_pktOpcode : (classifyFrame (expectedOf s.cfg i) (deliverOf i) s).pktOpcode = s.pktOpcode := by
  rw [classifyOf_frame]
@[simp] theorem classifyOf_pktParam1 : (classifyFrame (expectedOf s.cfg i) (deliverOf i) s).pktParam1 = s.pktParam1 := by
  rw [classifyOf_frame]
@[simp] theorem classifyOf_pktParam2 : (classifyFrame (expectedOf s.cfg i) (deliverOf i) s).pktParam2 = s.pktParam2 := by
  rw [classifyOf_frame]
@[simp] theorem classifyOf_pktChecksum : (classifyFrame (expectedOf s.cfg i) (deliverOf i) s).pktChecksum = s.pktChecksum := by
  rw [classifyOf_frame]
@[simp] theorem classifyOf_txfill : (classifyFrame (expectedOf s.cfg i) (deliverOf i) s).txfill = s.txfill := by
  rw [classifyOf_frame]
@[simp] theorem classifyOf_frmLength : (classifyFrame (expectedOf s.cfg i) (deliverOf i) s).frmLength = s.frmLength := by
  rw [classifyOf_frame]
@[simp] theorem classifyOf_frmValid : (classifyFrame (expectedOf s.cfg i) (deliverOf i) s).frmValid = s.frmValid := by
  rw [classifyOf_frame]
@[simp] theorem classifyOf_frmChecksum : (classifyFrame (expectedOf s.cfg i) (deliverOf i) s).frmChecksum = s.frmChecksum := by
  rw [classifyOf_frame]
@[simp] theorem classifyOf_calcReg : (classifyFrame (expectedOf s.cfg i) (deliverOf i) s).calcReg = s.calcReg := by
  rw [classifyOf_frame]
@[simp] theorem classifyOf_rxbuf : (classifyFrame (expectedOf s.cfg i) (deliverOf i) s).rxbuf = s.rxbuf := by
  rw [classifyOf_frame]
@[simp] theorem classifyOf_idx : (classifyFrame (expectedOf s.cfg i) (deliverOf i) s).idx = s.idx := by rw [classifyOf_frame]
@[simp] theorem classifyOf_eng : (classifyFrame (expectedOf s.cfg i) (deliverOf i) s).eng = s.eng := by rw [classifyOf_frame]
@[simp] theorem classifyOf_txn : (classifyFrame (expectedOf s.cfg i) (deliverOf i) s).txn = s.txn := by rw [classifyOf_frame]
@[simp] theorem classifyOf_program : (classifyFrame (expectedOf s.cfg i) (deliverOf i) s).program = s.program := by
  rw [classifyOf_frame]
@[simp] theorem classifyOf_acks : (classifyFrame (expectedOf s.cfg i) (deliverOf i) s).acks = s.acks := by rw [classifyOf_frame]
@[simp] theorem classifyOf_bytes : (classifyFrame (expectedOf s.cfg i) (deliverOf i) s).bytes = s.bytes := by
  rw [classifyOf_frame]
@[simp] theorem classifyOf_callsLeft : (classifyFrame (expectedOf s.cfg i) (deliverOf i) s).callsLeft = s.callsLeft := by
  rw [classifyOf_frame]
@[simp] theorem classifyOf_draws : (classifyFrame (expectedOf s.cfg i) (deliverOf i) s).draws = s.draws := by
  rw [classifyOf_frame]
@[simp] theorem classifyOf_trace : (classifyFrame (expectedOf s.cfg i) (deliverOf i) s).trace = s.trace := by
  rw [classifyOf_frame]
@[simp] theorem classifyOf_cfg : (classifyFrame (expectedOf s.cfg i) (deliverOf i) s).cfg = s.cfg := by rw [classifyOf_frame]

/-- What INITMAP can do (44_operations.md R137). -/
theorem initMap_cases :
    (s.resKind = .status ∧ s.resCode = s.cfg.selftestPass ∧ initMap s = setRes .success s.cfg.stSuccess s) ∨
      (¬(s.resKind = .status ∧ s.resCode = s.cfg.selftestPass) ∧ initMap s = setRes .initFail s.cfg.stInitFail s) := by
  by_cases h : s.resKind = .status ∧ s.resCode = s.cfg.selftestPass
  · exact .inl ⟨h.1, h.2, if_pos h⟩
  · exact .inr ⟨h, if_neg h⟩

/-- The phase after `CLASSIFY` and `TX_ABORT`. -/
theorem afterOf_cases : (i = .init ∧ afterOf i = .initmap) ∨ (i ≠ .init ∧ afterOf i = .done) := by
  cases i <;> simp [afterOf]

end

/-! ### One step -/

/-- What an operation answers in `IDLE`. -/
theorem exec_idle_cases {i : Instr} {s t : State} (hp : s.phase = .idle) (h : exec i s = .next t) :
    t = s ∨ (s.busy = false ∧ (∃ j, decode (encode i) = .ok j) ∧ t = accept (encode i) s) ∨
      (s.busy = false ∧ t = reject s) := by
  rw [exec_idle hp, Host.Outcome.next.injEq] at h
  subst h
  cases hb : s.busy with
  | true => exact .inl (by simp [issue, hb])
  | false =>
    cases hd : decode (encode i) with
    | ok j => exact .inr (.inl ⟨rfl, ⟨j, rfl⟩, issue_legal hb hd⟩)
    | error e => exact .inr (.inr ⟨rfl, issue_illegal hb hd⟩)

/-- Everything a step of the machine can lead to: it waits, takes a word, rejects one, or is a row of the phase table. -/
theorem step_next {s t : State} (h : step s = .next t) :
    (s.phase = .idle ∧ t = s) ∨
    (s.phase = .idle ∧ s.busy = false ∧ ∃ i rest, (∃ j, decode (encode i) = .ok j) ∧
      t = accept (encode i) (setProgram rest s)) ∨
    (s.phase = .idle ∧ s.busy = false ∧ ∃ rest, t = reject (setProgram rest s)) ∨
    (s.phase ≠ .idle ∧ ∃ i, decode s.cmd = .ok i ∧ exec i s = .next t ∧ RowStep i s t) := by
  rcases step_cases s with ⟨hp, e, -⟩ | ⟨hp, hb, w, r, -, ⟨i, hd, e⟩ | ⟨-, -, e⟩⟩ | ⟨hp, i, hd, e⟩ | ⟨-, -, -, e⟩ <;>
    rw [e] at h
  · cases h; exact .inl ⟨hp, rfl⟩
  · have hp' : (setProgram r s).phase = .idle := by simpa using hp
    have hb' : (setProgram r s).busy = false := by simpa using hb
    rw [exec_idle hp'] at h
    cases hj : decode (encode i) with
    | ok j =>
      rw [issue_legal hb' hj] at h
      cases h; exact .inr (.inl ⟨hp, hb, i, r, ⟨j, hj⟩, rfl⟩)
    | error x =>
      rw [issue_illegal hb' hj] at h
      cases h; exact .inr (.inr (.inl ⟨hp, hb, r, rfl⟩))
  · cases h; exact .inr (.inr (.inl ⟨hp, hb, r, rfl⟩))
  · exact .inr (.inr (.inr ⟨hp, i, hd, h, exec_rowStep hp h⟩))
  · cases h

/-- A step that calls a primitive answers if its act does. -/
theorem withCall_answers {act : State → Answer} {s : State} (h : ∀ u, ∃ t, act u = .next t) :
    ∃ t, withCall act s = .next t := by
  unfold withCall
  split
  · exact ⟨_, rfl⟩
  · exact h _

/-- A write answers if its continuation does. -/
theorem writeOrAbort_answers {b : Byte} {act : State → Answer} {s : State}
    (h : ∃ t, act (busWrite b s) = .next t) : ∃ t, writeOrAbort b act s = .next t := by
  unfold writeOrAbort
  split
  · exact h
  · exact ⟨_, rfl⟩

/-! ### Runs -/

@[simp] theorem run_zero (s : State) : Host.Core.run Sys2Proof.core 0 s = .next s := rfl

/-- A run begins with a step. -/
theorem run_step {k : Nat} {s t : State} (h : step s = .next t) :
    Host.Core.run Sys2Proof.core (k + 1) s = Host.Core.run Sys2Proof.core k t := by
  have h' : Sys2Proof.core.step s = .next t := h
  simp only [Host.Core.run, h']

/-- One run after another. -/
theorem run_append {j k : Nat} {s t u : State} (h1 : Host.Core.run Sys2Proof.core j s = .next t)
    (h2 : Host.Core.run Sys2Proof.core k t = .next u) : Host.Core.run Sys2Proof.core (j + k) s = .next u := by
  induction j generalizing s with
  | zero =>
    have e : s = t := Host.Outcome.next.inj h1
    rw [Nat.zero_add, e]; exact h2
  | succ n ih =>
    simp only [Host.Core.run] at h1
    split at h1
    · rename_i s' hs
      rw [Nat.add_right_comm]
      exact (run_step hs).trans (ih h1)
    · cases h1
    · cases h1

/-- The last step of a run. -/
theorem run_snoc {k : Nat} {s t u : State} (h1 : Host.Core.run Sys2Proof.core k s = .next t) (h2 : step t = .next u) :
    Host.Core.run Sys2Proof.core (k + 1) s = .next u :=
  run_append h1 (run_step (k := 0) h2)

/-! ### What the invariants read -/

/-- One event more on a well-formed trace. -/
theorem busPoint_snoc {l : List Event} {p : BusPoint} (e : Event) (h : busPoint l = some p) :
    busPoint (l ++ [e]) = busPointStep p e := by
  unfold busPoint at *
  rw [List.foldl_append, h]
  rfl

/-- The payload bytes depend on `RXBUF` alone. -/
theorem payloadBytes_congr {s t : State} (h : t.rxbuf = s.rxbuf) (n : Nat) : payloadBytes t n = payloadBytes s n := by
  simp [payloadBytes, readByte, buffer, h]

/-- One payload byte more. -/
theorem payloadBytes_succ (s : State) (n : Nat) :
    payloadBytes s (n + 1) = payloadBytes s n ++ [readByte .rxbuf n s] := by
  simp [payloadBytes, List.range_succ]

/-- Storing payload byte `n` leaves the first `n`. -/
theorem payloadBytes_writeByte (s : State) (n : Nat) (b : Byte) :
    payloadBytes (writeByte .rxbuf n b s) n = payloadBytes s n := by
  simp only [payloadBytes]
  refine List.map_congr_left fun i hi => ?_
  have : i ≠ n := Nat.ne_of_lt (List.mem_range.1 hi)
  simp [readByte_writeByte, this]

/-- The header depends on four packet registers. -/
theorem header_congr {s t : State} (h1 : t.pktCount = s.pktCount) (h2 : t.pktOpcode = s.pktOpcode)
    (h3 : t.pktParam1 = s.pktParam1) (h4 : t.pktParam2 = s.pktParam2) : header t = header s := by
  simp [header, h1, h2, h3, h4]

/-- The frame before its checksum depends on the packet registers, `TXFILL` and the configuration. -/
theorem frameBody_congr {s t : State} (h1 : t.pktCount = s.pktCount) (h2 : t.pktOpcode = s.pktOpcode)
    (h3 : t.pktParam1 = s.pktParam1) (h4 : t.pktParam2 = s.pktParam2) (h5 : t.txfill = s.txfill) (h6 : t.cfg = s.cfg) :
    frameBody t = frameBody s := by
  simp [frameBody, header_congr h1 h2 h3 h4, h5, h6]

/-- The header byte at `IDX` extends the header bytes before it. -/
theorem take_header {s : State} {b : Byte} (h : headerByte s = some b) :
    (header s).take (s.idx.toNat + 1) = (header s).take s.idx.toNat ++ [b] := by
  unfold headerByte at h
  rw [List.take_add_one, h]
  rfl

/-- There is a header byte exactly up to index 4. -/
theorem headerByte_isSome (s : State) : (headerByte s).isSome = decide (s.idx.toNat ≤ 4) := by
  by_cases h : s.idx.toNat ≤ 4
  · rw [decide_eq_true h, headerByte, List.getElem?_eq_getElem (by simp [header]; omega)]
    rfl
  · rw [decide_eq_false h, headerByte, List.getElem?_eq_none (by simp [header]; omega)]
    rfl

/-- `IDX + 1` does not wrap below 255. -/
theorem idx_succ {x : Byte} (h : x.toNat < 255) : (x + 1#8).toNat = x.toNat + 1 := by
  simp only [BitVec.toNat_add, BitVec.toNat_ofNat]
  omega

/-- A payload count fits `RXBUF` (43_frame_receiver.md R121). -/
theorem payloadLen_le (s : State) : payloadLen s ≤ 252 := by
  unfold payloadLen payloadCount frameOverhead
  omega

end Sys2Proof.Machine
end

