-- ==== Sys2Proof/Laws/Script.lean ====
section
/-! SUPPORT. The machine's step in each busy phase when every primitive returns: the row of the phase table as an equation
of `step`, with the answer of a write given. -/

namespace Sys2Proof.Machine

section
variable {i : Instr} {s : State} (hd : decode s.cmd = .ok i)
include hd

theorem step_build (hp : s.phase = .build) : step s = .next (goto .txCrcInit (buildOf i s)) := by
  rw [step_busy (by simp [hp]) hd, exec_build hp]
theorem step_classify (hp : s.phase = .classify) :
    step s = .next (goto (afterOf i) (classifyFrame (expectedOf s.cfg i) (deliverOf i) s)) := by
  rw [step_busy (by simp [hp]) hd, exec_classify hp]
theorem step_initmap (hp : s.phase = .initmap) : step s = .next (goto .done (initMap s)) := by
  rw [step_busy (by simp [hp]) hd, exec_initmap hp]
theorem step_done (hp : s.phase = .done) : step s = .next (complete s) := by
  rw [step_busy (by simp [hp]) hd, exec_done hp]

variable (hc : s.callsLeft = none)
include hc

theorem step_txCrcInit (hp : s.phase = .txCrcInit) : step s = .next (goto .txStart (crcInit s)) := by
  rw [step_busy (by simp [hp]) hd, exec_txCrcInit hp, rowTxCrcInit, withCall_none _ hc]
theorem step_txStart (hp : s.phase = .txStart) : step s = .next (goto .txAddr (busStart s)) := by
  rw [step_busy (by simp [hp]) hd, exec_txStart hp, rowTxStart, withCall_none _ hc]
theorem step_txAddr (hp : s.phase = .txAddr) : step s = .next (goto .txExec (busAddress .write s)) := by
  rw [step_busy (by simp [hp]) hd, exec_txAddr hp, rowTxAddr, withCall_none _ hc]
theorem step_txHdrUpd {b : Byte} (hb : headerByte s = some b) (hp : s.phase = .txHdrUpd) :
    step s = .next (goto .txHdrWr (crcUpdate b s)) := by
  rw [step_busy (by simp [hp]) hd, exec_txHdrUpd hp]
  simp only [rowTxHdrUpd, hb, withCall_none _ hc]
theorem step_txFillUpd (hp : s.phase = .txFillUpd) : step s = .next (goto .txFillWr (crcUpdate s.cfg.filler s)) := by
  rw [step_busy (by simp [hp]) hd, exec_txFillUpd hp, rowTxFillUpd, withCall_none _ hc]
theorem step_txCrcRes (hp : s.phase = .txCrcRes) :
    step s = .next (goto .txCkLo (setPktChecksum (crcValue s) (crcResult s))) := by
  rw [step_busy (by simp [hp]) hd, exec_txCrcRes hp, rowTxCrcRes, withCall_none _ hc]
theorem step_txStop (hp : s.phase = .txStop) : step s = .next (goto .wait (busStop s)) := by
  rw [step_busy (by simp [hp]) hd, exec_txStop hp, rowTxStop, withCall_none _ hc]
theorem step_txAbort (hp : s.phase = .txAbort) : step s = .next (goto (afterOf i) (raiseBusError s)) := by
  rw [step_busy (by simp [hp]) hd, exec_txAbort hp, rowTxAbort, withCall_none _ hc]
theorem step_wait (hp : s.phase = .wait) : step s = .next (goto .rxCrcInit (delayMs (settleOf s.cfg i) s)) := by
  rw [step_busy (by simp [hp]) hd, exec_wait hp, rowWait, withCall_none _ hc]
theorem step_rxCrcInit (hp : s.phase = .rxCrcInit) : step s = .next (goto .rxStart (crcInit s)) := by
  rw [step_busy (by simp [hp]) hd, exec_rxCrcInit hp, rowRxCrcInit, withCall_none _ hc]
theorem step_rxStart (hp : s.phase = .rxStart) : step s = .next (goto .rxAddr (busStart s)) := by
  rw [step_busy (by simp [hp]) hd, exec_rxStart hp, rowRxStart, withCall_none _ hc]
theorem step_rxAddr (hp : s.phase = .rxAddr) : step s = .next (goto .rxLenRd (busAddress .read s)) := by
  rw [step_busy (by simp [hp]) hd, exec_rxAddr hp, rowRxAddr, withCall_none _ hc]
theorem step_rxLenRd (hp : s.phase = .rxLenRd) :
    step s = .next (goto .rxLenUpd (setFrmLength (nextByte s) (busRead .ack s))) := by
  rw [step_busy (by simp [hp]) hd, exec_rxLenRd hp, rowRxLenRd, withCall_none _ hc]
theorem step_rxLenUpd (hp : s.phase = .rxLenUpd) :
    step s = .next (goto (if payloadLen s > 0 then .rxPayRd else .rxCkLo) (setIdx 0#8 (crcUpdate s.frmLength s))) := by
  rw [step_busy (by simp [hp]) hd, exec_rxLenUpd hp, rowRxLenUpd, withCall_none _ hc]
theorem step_rxPayRd (hp : s.phase = .rxPayRd) (hi : s.idx.toNat < s.cfg.rxbufSize) :
    step s = .next (goto .rxPayUpd (writeByte .rxbuf s.idx.toNat (nextByte s) (busRead .ack s))) := by
  rw [step_busy (by simp [hp]) hd, exec_rxPayRd hp, rowRxPayRd, withCall_none _ hc,
    if_pos (show idxInRxbuf s = true from decide_eq_true hi)]
theorem step_rxPayUpd (hp : s.phase = .rxPayUpd) (hi : s.idx.toNat < s.cfg.rxbufSize) :
    step s = .next (goto (if s.idx.toNat + 1 < payloadLen s then .rxPayRd else .rxCkLo)
      (setIdx (s.idx + 1#8) (crcUpdate (readByte .rxbuf s.idx.toNat s) s))) := by
  rw [step_busy (by simp [hp]) hd, exec_rxPayUpd hp, rowRxPayUpd, if_pos (show idxInRxbuf s = true from decide_eq_true hi),
    withCall_none _ hc]
theorem step_rxCkLo (hp : s.phase = .rxCkLo) :
    step s = .next (goto .rxCkHi (setFrmChecksumLo (nextByte s) (busRead .ack s))) := by
  rw [step_busy (by simp [hp]) hd, exec_rxCkLo hp, rowRxCkLo, withCall_none _ hc]
theorem step_rxCkHi (hp : s.phase = .rxCkHi) :
    step s = .next (goto .rxStop (setFrmChecksumHi (nextByte s) (busRead .nack s))) := by
  rw [step_busy (by simp [hp]) hd, exec_rxCkHi hp, rowRxCkHi, withCall_none _ hc]
theorem step_rxStop (hp : s.phase = .rxStop) : step s = .next (goto .rxCrcRes (busStop s)) := by
  rw [step_busy (by simp [hp]) hd, exec_rxStop hp, rowRxStop, withCall_none _ hc]
theorem step_rxCrcRes (hp : s.phase = .rxCrcRes) :
    step s = .next (goto .classify (setCalc (crcValue s) (crcResult s))) := by
  rw [step_busy (by simp [hp]) hd, exec_rxCrcRes hp, rowRxCrcRes, withCall_none _ hc]

/-! ### Writes that succeed -/

theorem step_txExec (ha : nextAck s = .ok) (hp : s.phase = .txExec) :
    step s = .next (goto .txHdrUpd (busWrite s.cfg.waExecute (setIdx 0#8 s))) := by
  have ha' : nextAck (setIdx 0#8 s) = .ok := ha
  rw [step_busy (by simp [hp]) hd, exec_txExec hp, rowTxExec, withCall_none _ hc]
  simp only [writeOrAbort, ha']
theorem step_txHdrWr {b : Byte} (hb : headerByte s = some b) (ha : nextAck s = .ok) (hp : s.phase = .txHdrWr) :
    step s = if s.idx.toNat < 4 then .next (goto .txHdrUpd (setIdx (s.idx + 1#8) (busWrite b s)))
      else if s.txfill.toNat > 0 then .next (goto .txFillUpd (setIdx 0#8 (busWrite b s)))
      else .next (goto .txCrcRes (setIdx 0#8 (busWrite b s))) := by
  rw [step_busy (by simp [hp]) hd, exec_txHdrWr hp]
  simp only [rowTxHdrWr, hb, withCall_none _ hc, writeOrAbort, ha]
  rfl
theorem step_txFillWr (ha : nextAck s = .ok) (hp : s.phase = .txFillWr) :
    step s = if s.idx.toNat + 1 < s.txfill.toNat then
        .next (goto .txFillUpd (setIdx (s.idx + 1#8) (busWrite s.cfg.filler s)))
      else if s.idx.toNat + 1 = s.txfill.toNat then
        .next (goto .txCrcRes (setIdx (s.idx + 1#8) (busWrite s.cfg.filler s)))
      else .fault .fillerCount := by
  rw [step_busy (by simp [hp]) hd, exec_txFillWr hp, rowTxFillWr, withCall_none _ hc]
  simp only [writeOrAbort, ha]
  rfl
theorem step_txCkLo (ha : nextAck s = .ok) (hp : s.phase = .txCkLo) :
    step s = .next (goto .txCkHi (busWrite (loByte s.pktChecksum) s)) := by
  rw [step_busy (by simp [hp]) hd, exec_txCkLo hp, rowTxCkLo, withCall_none _ hc]
  simp only [writeOrAbort, ha]
theorem step_txCkHi (ha : nextAck s = .ok) (hp : s.phase = .txCkHi) :
    step s = .next (goto .txStop (busWrite (hiByte s.pktChecksum) s)) := by
  rw [step_busy (by simp [hp]) hd, exec_txCkHi hp, rowTxCkHi, withCall_none _ hc]
  simp only [writeOrAbort, ha]

/-! ### Writes that fail -/

variable (ha : nextAck s = .busError)
include ha

theorem step_txExec_fail (hp : s.phase = .txExec) :
    step s = .next (goto .txAbort (busWrite s.cfg.waExecute (setIdx 0#8 s))) := by
  have ha' : nextAck (setIdx 0#8 s) = .busError := ha
  rw [step_busy (by simp [hp]) hd, exec_txExec hp, rowTxExec, withCall_none _ hc]
  simp only [writeOrAbort, ha']
theorem step_txHdrWr_fail {b : Byte} (hb : headerByte s = some b) (hp : s.phase = .txHdrWr) :
    step s = .next (goto .txAbort (busWrite b s)) := by
  rw [step_busy (by simp [hp]) hd, exec_txHdrWr hp]
  simp only [rowTxHdrWr, hb, withCall_none _ hc, writeOrAbort, ha]
theorem step_txFillWr_fail (hp : s.phase = .txFillWr) :
    step s = .next (goto .txAbort (busWrite s.cfg.filler s)) := by
  rw [step_busy (by simp [hp]) hd, exec_txFillWr hp, rowTxFillWr, withCall_none _ hc]
  simp only [writeOrAbort, ha]
theorem step_txCkLo_fail (hp : s.phase = .txCkLo) :
    step s = .next (goto .txAbort (busWrite (loByte s.pktChecksum) s)) := by
  rw [step_busy (by simp [hp]) hd, exec_txCkLo hp, rowTxCkLo, withCall_none _ hc]
  simp only [writeOrAbort, ha]
theorem step_txCkHi_fail (hp : s.phase = .txCkHi) :
    step s = .next (goto .txAbort (busWrite (hiByte s.pktChecksum) s)) := by
  rw [step_busy (by simp [hp]) hd, exec_txCkHi hp, rowTxCkHi, withCall_none _ hc]
  simp only [writeOrAbort, ha]

end

end Sys2Proof.Machine
end

