-- ==== Sys2Proof/Tests/Slice0.lean ====
section
/-! SUPPORT. The model's own tests, with expected results from the spec's tables and vectors, and one witness per statement:
a state and operands that meet its hypotheses. -/

namespace Sys2Proof.Tests

open Sys2Proof.Machine

/-! ### Small states -/

/-- Parameter set A of 95_test_vectors.md; the three host-visible error codes, which it leaves symbolic, are arbitrary. -/
def setA : Params where
  devAddr := 0x40#7
  crcSeed := 0xFFFF#16
  engine := .reference
  waExecute := 0x03#8
  filler := 0x00#8
  opSelftest := 0x77#8
  p1SelftestDrbg := 0x01#8
  p1SelftestSha := 0x20#8
  p1SelftestDrbgSha := 0x21#8
  p2Selftest := 0x0000#16
  opInfo := 0x30#8
  p1Info := 0x00#8
  p2Info := 0x0000#16
  opRandom := 0x16#8
  p1Random := 0x00#8
  p2Random := 0x0000#16
  opSerial := 0x02#8
  p1Serial := 0x01#8
  p2Serial := 0x0000#16
  stParseError := 0x03#8
  stSelftestError := 0x07#8
  stHealthtestError := 0x08#8
  stExecutionError := 0x0F#8
  stAfterWake := 0x11#8
  stBusError := 0xB0#8
  stOtherError := 0xB1#8
  stInitFail := 0xB2#8
  hostBase := 0

/-- The reset state under set A, with a host program and the oracle's answers. -/
def idleState (words : List Word) (acks : List BusResult) (bytes : List Byte) : State :=
  { State.reset with cfg := setA, program := words, acks := acks, bytes := bytes }

/-- A running operation at a phase, its packet built. -/
def busyState (i : Instr) (p : Phase) : State :=
  { State.reset with
    cfg := setA
    cmd := encode i
    busy := true
    phase := p
    pktCount := setA.overhead + fillerOf i
    pktOpcode := opcodeOf setA i
    pktParam1 := param1Of setA i
    pktParam2 := param2Of setA i
    txfill := fillerOf i
    eng := { seed := 0xFFFF#16, fed := [] } }

/-- A frame of `len` bytes received by an operation, its payload bytes `0, 1, 2, …`. -/
def framedState (i : Instr) (len : Byte) (valid : Bool) : State :=
  { busyState i .classify with
    frmLength := len
    frmValid := valid
    rxbuf := (List.range (len.toNat - 3)).map (fun j => (j, BitVec.ofNat 8 j)) }

/-- The next state of a step, if it answers one. -/
def nextOf (a : Answer) : Option State :=
  match a with
  | .next t => some t
  | .fault _ => none
  | .refused _ => none

/-! ### Well-formedness and decoding -/

/-- Smoke test of `Instr.wf`: RANDOM with a filler count above 248 is refused, 248 is not (30_encoding.md R65, R75). -/
theorem test_illFormed_random : (Instr.random 249#8).wf = false ∧ (Instr.random 248#8).wf = true := by decide

/-- Each row's word, bit by bit from the field table of 30_encoding.md R62: filln, reserved, variant, op. -/
theorem test_decode_init : decodeTableWord 16 0b0000000000000001 = some .init := by decide
theorem test_decode_selftestDrbg : decodeTableWord 16 0b0000000000000010 = some .selftestDrbg := by decide
theorem test_decode_selftestSha : decodeTableWord 16 0b0000000000001010 = some .selftestSha := by decide
theorem test_decode_selftestDrbgSha : decodeTableWord 16 0b0000000000010010 = some .selftestDrbgSha := by decide
theorem test_decode_info : decodeTableWord 16 0b0000000000000011 = some .info := by decide
theorem test_decode_random : decodeTableWord 16 0b0001010000000100 = some (.random 20#8) := by decide
theorem test_decode_serial : decodeTableWord 16 0b0000000000000101 = some .serial := by decide

/-- R79's program of two lines, and its command words (30_encoding.md R62). -/
theorem test_text_random : textOf (.random 20#8) = "RANDOM 20" := by decide +kernel
theorem test_assemble : assemble [.selftestDrbg, .init] = [0x0002#16, 0x0001#16] := by decide

/-- A reserved operation code is refused by name (95_test_vectors.md V19). -/
theorem test_decode_reserved : decode 0x0006#16 = .error .reservedOp := by decide

/-- A table word placed at the machine is the one the next step runs. -/
theorem test_fetch_info :
    nextOf (step ((idleState [] [] []).withFetchWord 16 0x0003)) = nextOf (exec .info (idleState [] [] [])) := by decide

/-! ### Checksums and frames (95_test_vectors.md) -/

/-- V1, set A: the INFO command's checksum. -/
theorem test_crc_info : crcOf setA [0x07#8, 0x30#8, 0x00#8, 0x00#8, 0x00#8] = 0x7903#16 := by decide +kernel

/-- V5, set A: the checksum of the standard frame that carries 0x00. -/
theorem test_crc_standard : crcOf setA [0x04#8, 0x00#8] = 0xC00E#16 := by decide +kernel

/-- V1: the byte sent first of checksum 0x7903 is 03, the second 79; read back in that order they are the value. -/
theorem test_byte_order : loByte 0x7903#16 = 0x03#8 ∧ hiByte 0x7903#16 = 0x79#8 ∧ joinBytes 0x79#8 0x03#8 = 0x7903#16 := by
  decide

/-- V2, V4: the header bytes of the SHA self-test and of RANDOM with 248 fillers. -/
theorem test_header_selftestSha :
    header (busyState .selftestSha .txCrcInit) = [0x07#8, 0x77#8, 0x20#8, 0x00#8, 0x00#8] := by decide
theorem test_header_random :
    header (busyState (.random 248#8) .txCrcInit) = [0xFF#8, 0x16#8, 0x00#8, 0x00#8, 0x00#8] := by decide

/-! ### One step per operation -/

/-- BUILD of SERIAL, V3: `07 02 01 00 00`. -/
theorem test_build_serial :
    nextOf (exec .serial { busyState .serial .build with pktOpcode := 0#8, pktParam1 := 0#8 }) =
      some { busyState .serial .txCrcInit with written := { State.reset.written with packet := true } } := by decide

/-- A standard frame carrying 0x01 ends the inner self-test of INIT as `(STATUS, 0x01)` (E4). -/
theorem test_classify_init :
    nextOf (exec .init { framedState .init 4#8 true with rxbuf := [(0, 0x01#8)] }) =
      some { framedState .init 4#8 true with
        rxbuf := [(0, 0x01#8)], phase := .initmap, resKind := .status, resCode := 0x01#8 } := by decide

/-- And INITMAP reports initialization failure (E4). -/
theorem test_initmap_failure :
    nextOf (exec .init { busyState .init .initmap with resKind := .status, resCode := 0x01#8 }) =
      some { busyState .init .done with resKind := .initFail, resCode := 0xB2#8 } := by decide

/-- A self-test has no data frame: a valid 7-byte frame is OtherError (44_operations.md R133). -/
theorem test_classify_selftestDrbg :
    nextOf (exec .selftestDrbg (framedState .selftestDrbg 7#8 true)) =
      some { framedState .selftestDrbg 7#8 true with phase := .done, resKind := .otherError, resCode := 0xB1#8 } := by
  decide

/-- The four bytes of a valid 7-byte frame, in order (E5). -/
theorem test_classify_info :
    nextOf (exec .info (framedState .info 7#8 true)) =
      some { framedState .info 7#8 true with
        infoRfu := 0#8, infoDevid := 1#8, infoSilid := 2#8, infoRev := 3#8
        written := { State.reset.written with info := true }
        phase := .done, resKind := .success, resCode := 0x00#8 } := by decide

/-- A write of RANDOM that fails goes to the abort phase (E6). -/
theorem test_random_busError :
    nextOf (exec (.random 20#8) { busyState (.random 20#8) .txFillWr with acks := [.busError] }) =
      some { busyState (.random 20#8) .txAbort with trace := [.busWrite 0x00#8 .busError] } := by decide

/-! ### Witnesses: each statement's hypotheses can be met -/

theorem witness_DecodeEncodeAgree : (Instr.random 248#8).wf = true := by decide

theorem witness_DecodedWordIsItsEncoding : decode 0xF804#16 = .ok (.random 248#8) := by decide

theorem witness_StepRunsDecodedCommand :
    decode 0x0003#16 = .ok .info ∧
    ((idleState [0x0003#16] [] []).phase = .idle ∧ (idleState [0x0003#16] [] []).busy = false ∧
      (idleState [0x0003#16] [] []).program = 0x0003#16 :: []) ∧
    ((busyState .info .build).phase ≠ .idle ∧ (busyState .info .build).cmd = 0x0003#16) := by decide

theorem witness_IllegalWordIsRejected :
    decode 0x0103#16 = .error .fillerOutsideRandom ∧ (idleState [0x0103#16] [] []).phase = .idle ∧
    (idleState [0x0103#16] [] []).busy = false ∧ (idleState [0x0103#16] [] []).program = 0x0103#16 :: [] := by decide

theorem witness_IdleWaitsForTheHost :
    ((idleState [] [] []).phase = .idle ∧ (idleState [] [] []).program = []) ∧
    (let s := { idleState [0x0003#16] [] [] with busy := true }
     s.phase = .idle ∧ s.busy = true) := by decide

theorem witness_WordWhileBusyChangesNothing : (busyState .info .wait).busy = true := by decide

theorem witness_AcceptedCommandStartsBuild :
    (Instr.random 248#8).wf = true ∧ (idleState [] [] []).phase = .idle ∧ (idleState [] [] []).busy = false := by decide

theorem witness_BuildWritesThePacket :
    (Instr.random 248#8).wf = true ∧ (busyState (.random 248#8) .build).phase = .build := by decide

theorem witness_InitBuildsAsSelftestDrbg : (busyState .init .build).phase = .build := by decide

theorem witness_WaitDelaysTheSettleTime :
    (busyState .info .wait).phase = .wait ∧ (busyState .info .wait).callsLeft ≠ some 0 := by decide

theorem witness_StandardFramePassesThrough :
    (framedState .serial 4#8 true).phase = .classify ∧ (framedState .serial 4#8 true).frmValid = true ∧
    (framedState .serial 4#8 true).frmLength = setA.frameStd ∧ memRead (framedState .serial 4#8 true).rxbuf 0 = some 0#8 := by decide

theorem witness_InfoDeliversDeviceInfo :
    (framedState .info 7#8 true).phase = .classify ∧ (framedState .info 7#8 true).frmValid = true ∧
    (framedState .info 7#8 true).frmLength = setA.frameInfo ∧ setA.frameInfo ≠ setA.frameStd ∧
    memRead (framedState .info 7#8 true).rxbuf 0 = some 0#8 ∧
    memRead (framedState .info 7#8 true).rxbuf 1 = some 1#8 ∧ memRead (framedState .info 7#8 true).rxbuf 2 = some 2#8 ∧
    memRead (framedState .info 7#8 true).rxbuf 3 = some 3#8 := by decide

theorem witness_RandomDelivers32Bytes :
    (framedState (.random 0#8) 35#8 true).phase = .classify ∧ (framedState (.random 0#8) 35#8 true).frmValid = true ∧
    (framedState (.random 0#8) 35#8 true).frmLength = setA.frameRandom ∧ setA.frameRandom ≠ setA.frameStd ∧
    ∀ j < setA.randomLen, (memRead (framedState (.random 0#8) 35#8 true).rxbuf j).isSome = true := by decide +kernel

theorem witness_SerialDelivers16Bytes :
    (framedState .serial 19#8 true).phase = .classify ∧ (framedState .serial 19#8 true).frmValid = true ∧
    (framedState .serial 19#8 true).frmLength = setA.frameSerial ∧ setA.frameSerial ≠ setA.frameStd ∧
    ∀ j < 16, (memRead (framedState .serial 19#8 true).rxbuf j).isSome = true := by decide +kernel

/-- An invalid frame of the expected length, and valid ones at the boundary lengths 3 and 5, one of them for SELFTEST, which
expects none. -/
theorem witness_OtherErrorFromTheThirdArmOnly :
    ((framedState .info 7#8 false).phase = .classify ∧ (framedState .info 7#8 false).frmValid = false) ∧
    ((framedState .info 3#8 true).phase = .classify ∧ (framedState .info 3#8 true).frmLength ≠ setA.frameStd ∧
      expectedOf setA .info ≠ some (framedState .info 3#8 true).frmLength) ∧
    ((framedState .selftestSha 5#8 true).frmLength ≠ setA.frameStd ∧
      expectedOf setA .selftestSha ≠ some (framedState .selftestSha 5#8 true).frmLength) ∧
    nextOf (exec .info (framedState .info 7#8 false)) =
      some { framedState .info 7#8 false with phase := .done, resKind := .otherError, resCode := 0xB1#8 } ∧
    (framedState .info 7#8 false).resKind ≠ .otherError := by decide

/-- The two clauses of INITMAP: a pass, and the status byte next to it. -/
theorem witness_InitMapsTheInnerOutcome :
    let pass := { busyState .init .initmap with resKind := .status, resCode := 0x00#8 }
    let fail := { busyState .init .initmap with resKind := .status, resCode := 0x01#8 }
    (pass.phase = .initmap ∧ pass.resKind = .status ∧ pass.resCode = pass.cfg.selftestPass) ∧
      (fail.phase = .initmap ∧ ¬(fail.resKind = .status ∧ fail.resCode = fail.cfg.selftestPass)) := by decide

theorem witness_InitStepsAsSelftestDrbg :
    ((busyState .init .txStart).phase ≠ .idle ∧ (busyState .init .txStart).phase ≠ .txAbort ∧
      (busyState .init .txStart).phase ≠ .classify) ∧
    (∃ t, exec .selftestDrbg (framedState .init 4#8 true) = .next t) ∧ (framedState .init 4#8 true).phase = .classify ∧
    (∃ t, exec .selftestDrbg (busyState .init .txAbort) = .next t) ∧ (busyState .init .txAbort).phase = .txAbort :=
  ⟨by decide, ⟨_, rfl⟩, rfl, ⟨_, rfl⟩, rfl⟩

theorem witness_DoneReleasesTheHost : (busyState .info .done).phase = .done := by decide

/-- Every phase that writes, the header phase at its last index. -/
theorem witness_FailedWriteAborts :
    ∀ p ∈ [Phase.txExec, .txHdrWr, .txFillWr, .txCkLo, .txCkHi],
      let s := { busyState (.random 1#8) p with acks := [.busError], idx := 4#8 }
      writesBus s.phase = true ∧ (s.phase = .txHdrWr → s.idx.toNat ≤ 4) ∧ s.callsLeft = none ∧
        s.acks = .busError :: [] := by decide

theorem witness_BusErrorFromFailedWritesOnly :
    let s := { busyState .info .txExec with acks := [.busError] }
    (∃ t, exec .info s = .next t ∧ s.phase ≠ .txAbort ∧ t.phase = .txAbort) ∧
    (∃ t, exec .info (busyState .info .txAbort) = .next t ∧ (busyState .info .txAbort).resKind ≠ .busError ∧
      t.resKind = .busError) :=
  ⟨⟨_, rfl, by decide, rfl⟩, ⟨_, rfl, by decide, rfl⟩⟩

theorem witness_TransmitSendsTheFrame :
    let s := { busyState (.random 1#8) .txCrcInit with acks := List.replicate 9 .ok }
    s.phase = .txCrcInit ∧ decode s.cmd = .ok (.random 1#8) ∧ s.callsLeft = none ∧
      s.acks = List.replicate (8 + s.txfill.toNat) .ok ++ [] := by decide

/-- The first and the last write of a frame with one filler fail. -/
theorem witness_TransmitAbortsAtTheFailedWrite :
    ∀ k ∈ [0, 8],
      let s := { busyState (.random 1#8) .txCrcInit with acks := List.replicate k BusResult.ok ++ [BusResult.busError] }
      s.phase = .txCrcInit ∧ decode s.cmd = .ok (.random 1#8) ∧ s.callsLeft = none ∧ k < 8 + s.txfill.toNat ∧
        s.acks = List.replicate k .ok ++ .busError :: [] := by decide

/-- The good TRANSMIT, and aborts at the first write and at the last one before the checksum. -/
theorem witness_CommandChecksumCoversTheFrameBeforeIt :
    let s := { busyState (.random 1#8) .txCrcInit with acks := List.replicate 9 .ok }
    (s.phase = .txCrcInit ∧ decode s.cmd = .ok (.random 1#8) ∧ s.callsLeft = none ∧
      s.acks = List.replicate (8 + s.txfill.toNat) .ok ++ []) ∧
    ∀ k ∈ [0, 6],
      let u := { s with acks := List.replicate k BusResult.ok ++ [BusResult.busError] }
      k < 6 + u.txfill.toNat ∧ u.acks = List.replicate k .ok ++ .busError :: [] := by decide

theorem witness_ReceivedFrameIsJudgedByItsChecksum :
    252 ≤ (busyState (.random 0#8) .rxCrcInit).cfg.rxbufSize ∧
    (busyState (.random 0#8) .rxCrcInit).phase = .rxCrcInit ∧ decode (busyState (.random 0#8) .rxCrcInit).cmd = .ok (.random 0#8) ∧
      (busyState (.random 0#8) .rxCrcInit).callsLeft = none := by decide

theorem witness_ReceiveReadsTheFrame :
    252 ≤ (busyState .info .rxCrcInit).cfg.rxbufSize ∧
    (busyState .info .rxCrcInit).phase = .rxCrcInit ∧ decode (busyState .info .rxCrcInit).cmd = .ok .info ∧
      (busyState .info .rxCrcInit).callsLeft = none := by decide

theorem witness_SixteenBitFieldsLowByteFirst :
    (∀ p ∈ [Phase.txCkLo, .txCkHi, .txHdrWr],
      let s := { busyState .info p with acks := [.ok] }
      s.callsLeft = none ∧ s.acks = .ok :: [] ∧ s.phase = p) ∧
    (∀ k ∈ [3#8, 4#8], ({ busyState .info .txHdrWr with acks := [.ok], idx := k }).idx = k) ∧
    (let s := { busyState .info .rxCkLo with bytes := [0x03#8, 0x79#8] }
     s.callsLeft = none ∧ s.phase = .rxCkLo ∧ s.bytes = 0x03#8 :: 0x79#8 :: []) := by decide

/-- INFO with the valid frame of program P1, set A. -/
theorem witness_OperationReachesItsOutcome :
    let s := idleState [encode .info] (List.replicate 8 .ok) [0x07#8, 0x00#8, 0xD0#8, 0x20#8, 0x10#8, 0xAC#8, 0x11#8]
    FramesFit s.cfg ∧ Instr.info.wf = true ∧ s.phase = .idle ∧ s.busy = false ∧ s.program = encode .info :: [] ∧ s.callsLeft = none ∧
      s.acks = List.replicate (8 + (fillerOf .info).toNat) .ok ++ [] ∧
      [0x00#8, 0xD0#8, 0x20#8, 0x10#8].length = (0x07#8).toNat - 3 ∧
      [0x00#8, 0xD0#8, 0x20#8, 0x10#8].length ≤ s.cfg.rxbufSize ∧
      s.bytes = 0x07#8 :: ([0x00#8, 0xD0#8, 0x20#8, 0x10#8] ++ 0xAC#8 :: 0x11#8 :: []) := by
  refine ⟨⟨by decide, by decide, by decide, by decide⟩, by decide⟩

/-- The frames without a payload: a declared length of 0, 2 (below the overhead, D13) and 3. -/
theorem witness_OperationReachesItsOutcome_noPayload :
    ∀ len ∈ [0x00#8, 0x02#8, 0x03#8],
      let s := idleState [encode (.random 0#8)] (List.replicate 8 .ok) [len, 0xAC#8, 0x11#8]
      s.program = encode (.random 0#8) :: [] ∧ ([] : List Byte).length = len.toNat - 3 ∧
        ([] : List Byte).length ≤ s.cfg.rxbufSize ∧
        s.acks = List.replicate (8 + (fillerOf (.random 0#8)).toNat) .ok ++ [] ∧
        s.bytes = len :: ([] ++ 0xAC#8 :: 0x11#8 :: []) := by decide

theorem witness_AbortedOperationLeavesResultsUnchanged :
    ∀ k ∈ [0, 7],
      let s := idleState [encode .init] (List.replicate k BusResult.ok ++ [BusResult.busError]) []
      Instr.init.wf = true ∧ s.phase = .idle ∧ s.busy = false ∧ s.program = encode .init :: [] ∧ s.callsLeft = none ∧
        k < 8 + (fillerOf .init).toNat ∧ s.acks = List.replicate k .ok ++ .busError :: [] := by decide

/-- INFO's own command frame read back: V1 gives its checksum. -/
theorem witness_LoopbackIsValid :
    let s := { busyState .info .rxCrcInit with
      pktChecksum := 0x7903#16, bytes := [0x07#8, 0x30#8, 0x00#8, 0x00#8, 0x00#8, 0x03#8, 0x79#8] }
    s.phase = .rxCrcInit ∧ decode s.cmd = .ok .info ∧ s.callsLeft = none ∧ s.pktCount.toNat = 7 + s.txfill.toNat ∧
      4 + s.txfill.toNat ≤ s.cfg.rxbufSize ∧
      s.pktChecksum = crcOf s.cfg (frameBody s) ∧
      s.bytes = frameBody s ++ [loByte s.pktChecksum, hiByte s.pktChecksum] ++ [] := by decide +kernel

/-- Bit 0 of the payload byte of the standard frame `04 00 0E C0` (V5), under an engine that detects it; and bit 7 of its
last checksum byte, where no property of the engine is asked for. -/
theorem witness_SingleBitFlipInvalidatesTheFrame :
    let s := { busyState .info .rxCrcInit with bytes := [0x04#8, 0x00#8, 0x0E#8, 0xC0#8] }
    SingleBitDetect s.cfg ∧ s.phase = .rxCrcInit ∧ decode s.cmd = .ok .info ∧ s.callsLeft = none ∧
      [0x00#8].length = payloadCount 0x04#8 ∧ [0x00#8].length ≤ s.cfg.rxbufSize ∧
      crcOf s.cfg [0x04#8, 0x00#8] = joinBytes 0xC0#8 0x0E#8 ∧
      s.bytes = 0x04#8 :: ([0x00#8] ++ [0x0E#8, 0xC0#8]) ++ [] ∧
      (∀ jb ∈ [(1, 0), (3, 7)], 0 < jb.1 ∧ jb.1 < [0x00#8].length + 3 ∧ jb.2 < 8) ∧ ¬3 ≤ [0x00#8].length :=
  ⟨reference_singleBitDetect rfl (by decide), by decide +kernel⟩

/-- A busy state of the invariants: INFO about to start its write transaction. -/
theorem inv_busyState : Inv (busyState .info .txStart) where
  buffers := fun sp => by cases sp <;> simp [buffer, busyState, State.reset, Memory.wf]
  busy := by decide
  command := .inl ⟨.info, by decide⟩
  packet := .inr (.inr fun i h => by
    cases (show decode (busyState .info .txStart).cmd = .ok .info by decide).symm.trans h
    decide)
  index := by simp [IndexOk, busyState, State.reset]
  txn := rfl
  outcome := ⟨trivial, by simp [busyState], by simp [busyState]⟩

theorem checksumInv_busyState : ChecksumInv (busyState .info .txStart) where
  engine := fun bs h => by cases h; rfl
  command := by simp [busyState, checksumSent, inReceive]
  frame := by simp [busyState]
  payload := by simp [busyState]

theorem witness_EveryOperationEnds :
    Inv (busyState .info .txStart) ∧ 252 ≤ (busyState .info .txStart).cfg.rxbufSize ∧
      (busyState .info .txStart).phase ≠ .idle ∧ (busyState .info .txStart).callsLeft = none :=
  ⟨inv_busyState, by decide, by decide, rfl⟩

/-- Two idle states that differ in a register. -/
theorem witness_OutcomeIndependentOfHistory :
    let s := idleState [0x0003#16] [] []
    let u := { s with frmLength := 4#8, infoRev := 9#8 }
    4 ≤ s.cfg.frameStd.toNat ∧ s.phase = .idle ∧ u.phase = .idle ∧ s.busy = false ∧ u.busy = false ∧
      s.program = 0x0003#16 :: [] ∧
      u.program = 0x0003#16 :: [] ∧ u.cfg = s.cfg ∧ u.acks = s.acks ∧ u.bytes = s.bytes ∧ u.callsLeft = s.callsLeft ∧
      u.draws = s.draws ∧ s ≠ u ∧ Host.Core.run Sys2Proof.core 1 s = .next (accept 0x0003#16 (setProgram [] s)) := by
  exact ⟨by decide, rfl, rfl, rfl, rfl, rfl, rfl, rfl, rfl, rfl, rfl, rfl, by decide, rfl⟩

/-- A reset between two transactions, the trace of the first one complete. -/
theorem witness_ResetMeetsTheInvariants :
    let s := { busyState .info .wait with
      trace := [.busStart, .busAddress 0x40#7 .write, .busWrite 0x03#8 .busError, .busStop] }
    s.txn = .closed ∧ busPoint s.trace = some .closed := by decide

theorem witness_EveryStepKeepsTheInvariant :
    Inv (busyState .info .txStart) ∧ ∃ t, step (busyState .info .txStart) = .next t :=
  ⟨inv_busyState, _, rfl⟩

theorem witness_EveryStepFromInvariantStatesAnswers :
    Inv (busyState .info .txStart) ∧ 252 ≤ (busyState .info .txStart).cfg.rxbufSize :=
  ⟨inv_busyState, by decide⟩

theorem witness_EveryStepKeepsTheChecksums :
    Inv (busyState .info .txStart) ∧ ChecksumInv (busyState .info .txStart) ∧
      ∃ t, step (busyState .info .txStart) = .next t :=
  ⟨inv_busyState, checksumInv_busyState, _, rfl⟩

theorem witness_EveryStepKeepsTransactionsWellFormed :
    BusDiscipline (busyState .info .txStart) ∧ ∃ t, step (busyState .info .txStart) = .next t :=
  ⟨rfl, _, rfl⟩

/-- A phase without a call, a header write at index 4, and one whose call never returns. -/
theorem witness_StepAddsTheEventOfItsPhase :
    (callsPrimitive (busyState .info .build).phase = false ∧ ∃ t, step (busyState .info .build) = .next t) ∧
    (let s := { busyState .info .txHdrWr with idx := 4#8, acks := [.ok] }
     callsPrimitive s.phase = true ∧ s.callsLeft ≠ some 0 ∧ eventOf .info s = some (.busWrite 0x00#8 .ok) ∧
      ∃ t, step s = .next t) ∧
    (callsPrimitive ({ busyState .info .txStart with callsLeft := some 0 }).phase = true ∧
      ∃ t, step { busyState .info .txStart with callsLeft := some 0 } = .next t) :=
  ⟨⟨rfl, _, rfl⟩, ⟨rfl, by decide, by decide, _, rfl⟩, rfl, _, rfl⟩

theorem witness_CallThatNeverReturnsHoldsThePhase :
    let s := { busyState .info .txStart with callsLeft := some 0 }
    Inv s ∧ callsPrimitive s.phase = true ∧ s.callsLeft = some 0 :=
  ⟨⟨inv_busyState.buffers, inv_busyState.busy, inv_busyState.command, inv_busyState.packet, inv_busyState.index,
    inv_busyState.txn, inv_busyState.outcome⟩, rfl, rfl⟩

theorem witness_NoStepWritesTheConfiguration : ∃ t, step (busyState .info .wait) = .next t := ⟨_, rfl⟩

/-- `TX_CRCRES`, which writes `PKT.CHECKSUM`, and a phase that does not. -/
theorem witness_TransmitLeavesTheRest :
    (inTransmit (busyState .info .txCrcRes).phase = true ∧ ∃ t, exec .info (busyState .info .txCrcRes) = .next t) ∧
    (inTransmit (busyState .info .txCkHi).phase = true ∧ (busyState .info .txCkHi).phase ≠ .txCrcRes ∧
      ∃ t, exec .info (busyState .info .txCkLo) = .next t) := by
  refine ⟨⟨rfl, _, rfl⟩, rfl, by decide, ?_⟩
  rw [exec_txCkLo rfl]
  exact withCall_answers fun _ => writeOrAbort_answers ⟨_, rfl⟩

/-- `RX_PAY_RD` at the last byte of `RXBUF`, and a phase that writes no byte of it. -/
theorem witness_ReceiveLeavesTheRest :
    let s := { busyState .info .rxPayRd with idx := 251#8, frmLength := 255#8 }
    (inReceive s.phase = true ∧ ∃ t, exec .info s = .next t) ∧
    (inReceive (busyState .info .rxLenRd).phase = true ∧ (busyState .info .rxLenRd).phase ≠ .rxPayRd ∧
      ∃ t, exec .info (busyState .info .rxLenRd) = .next t) :=
  ⟨⟨rfl, _, rfl⟩, rfl, by decide, _, rfl⟩

theorem witness_DataRegistersChangeOnOwnSuccessOnly :
    ∃ t, exec .info (framedState .info 7#8 true) = .next t ∧ t.infoDevid ≠ (framedState .info 7#8 true).infoDevid :=
  ⟨_, rfl, by decide⟩

/-- A success of SERIAL, which is neither INFO nor RANDOM, and one of INFO, which is not SERIAL. -/
theorem witness_ClassifyLeavesTheRest :
    ((framedState .serial 19#8 true).phase = .classify ∧ ∃ t, exec .serial (framedState .serial 19#8 true) = .next t) ∧
    ((framedState .info 7#8 true).phase = .classify ∧ ∃ t, exec .info (framedState .info 7#8 true) = .next t) ∧
    Instr.serial ≠ .info ∧ (∀ n, Instr.serial ≠ .random n) ∧ Instr.info ≠ .serial :=
  ⟨⟨rfl, _, rfl⟩, ⟨rfl, _, rfl⟩, by decide, (fun _ => by simp), by decide⟩

theorem witness_HostReadsWhileBusyAreRefused :
    (busyState .info .wait).busy = true ∧ HostReg.cmd ≠ HostReg.busy ∧ (idleState [] [] []).busy = false := by decide

/-- Each kind of outcome, in an idle state. -/
theorem witness_HostReadsTheOutcome :
    ∀ k ∈ [ResKind.none, .success, .status, .busError, .otherError, .initFail, .rejected],
      let s := { idleState [] [] [] with resKind := k }
      s.busy = false ∧ s.resKind = k := by decide

/-- After an INFO, whose registers are all written, and before any operation. -/
theorem witness_HostReadsTheRegisters :
    (let s := { busyState .info .idle with
        busy := false
        written := {
          packet := true, pktChecksum := true, frmLength := true, frmChecksum := true, calcReg := true, info := true } }
     s.busy = false ∧ s.written.packet = true ∧ s.written.info = true ∧ hostRead .pktCount s = .ok 7#16) ∧
    ((idleState [] [] []).busy = false ∧ (idleState [] [] []).written.packet = false) := by decide

/-- The last byte of each register file, written, and the index after it. -/
theorem witness_HostReadsTheBuffers :
    let s := { idleState [] [] [] with rxbuf := [(251, 0x11#8)], rnd := [(31, 0x22#8)], ser := [(15, 0x33#8)] }
    s.busy = false ∧ hostRead (.rxbuf 251) s = .ok 0x11#16 ∧ hostRead (.rnd 31) s = .ok 0x22#16 ∧
      hostRead (.ser 15) s = .ok 0x33#16 ∧ 31 < s.cfg.randomLen ∧ s.cfg.randomLen ≤ 32 ∧
      251 < s.cfg.rxbufSize ∧ s.cfg.rxbufSize ≤ 252 := by decide

/-- The first number that names no register, and a register read by its number. -/
theorem witness_HostRegisterNumbers :
    23 ≤ 23 ∧ hostReadNumber 13 0 (idleState [] [] []) = .ok 0#16 ∧
      hostReadNumber 0 0 { idleState [] [] [] with cmd := 0x0003#16 } = .ok 0x0003#16 := by decide

/-- The second payload byte, where the receive buffer has one byte. -/
theorem witness_PayloadBeyondTheBufferFaults :
    ∀ p ∈ [Phase.rxPayRd, .rxPayUpd],
      let s := { busyState .info p with cfg := { setA with rxbufSize := 1 }, idx := 1#8, frmLength := 7#8 }
      s.cfg.rxbufSize ≤ s.idx.toNat ∧ s.phase = p ∧ s.callsLeft ≠ some 0 := by decide

end Sys2Proof.Tests
end

section
/-! SUPPORT. Sixteen-bit fields on the wire (30_encoding.md R66): the two bytes of a word as numbers, the rows that send or
receive one of them when every primitive returns, and the statement about the byte order. -/

namespace Sys2Proof.Machine

/-! ### The two bytes of a word -/

/-- `w[7:0]` is the remainder by 256. -/
theorem loByte_eq_ofNat_mod (w : Word) : loByte w = BitVec.ofNat 8 (w.toNat % 256) := by
  apply BitVec.eq_of_toNat_eq
  simp [loByte]

/-- `w[15:8]` is the quotient by 256. -/
theorem hiByte_eq_ofNat_div (w : Word) : hiByte w = BitVec.ofNat 8 (w.toNat / 256) := by
  apply BitVec.eq_of_toNat_eq
  simp [hiByte, Nat.shiftRight_eq_div_pow]

theorem toNat_joinBytes (hi lo : Byte) : (joinBytes hi lo).toNat = 256 * hi.toNat + lo.toNat := by
  rw [joinBytes, BitVec.toNat_append, ← Nat.shiftLeft_add_eq_or_of_lt lo.isLt, Nat.shiftLeft_eq, Nat.mul_comm]

@[simp] theorem loByte_joinBytes (hi lo : Byte) : loByte (joinBytes hi lo) = lo := by
  rw [loByte_eq_ofNat_mod, toNat_joinBytes, Nat.mul_add_mod, Nat.mod_eq_of_lt lo.isLt, BitVec.ofNat_toNat,
    BitVec.setWidth_eq]

/-! ### Rows that send or receive a checksum or header byte -/

/-- A good write of TRANSMIT goes on with its own continuation. -/
theorem writeOrAbort_ok {b : Byte} {onOk : State → Answer} {s : State} (ha : nextAck s = .ok) :
    writeOrAbort b onOk s = onOk (busWrite b s) := by
  simp only [writeOrAbort, ha]

/-- Before the last header byte the next one follows. -/
theorem afterHeaderWrite_of_lt {s : State} (h : s.idx.toNat < 4) :
    afterHeaderWrite s = .next (goto .txHdrUpd (setIdx (s.idx + 1#8) s)) :=
  if_pos h

/-- What follows a header byte makes no event of its own. -/
theorem afterHeaderWrite_trace (s : State) : ∃ t, afterHeaderWrite s = .next t ∧ t.trace = s.trace := by
  unfold afterHeaderWrite
  split
  · exact ⟨_, rfl, rfl⟩
  · split <;> exact ⟨_, rfl, rfl⟩

section
variable {i : Instr} {s : State} (hc : s.callsLeft = none)
include hc

theorem exec_txCkLo_ok (ha : nextAck s = .ok) (hp : s.phase = .txCkLo) :
    exec i s = .next (goto .txCkHi (busWrite (loByte s.pktChecksum) s)) := by
  rw [exec_txCkLo hp, rowTxCkLo, withCall_none _ hc, writeOrAbort_ok ha]

theorem exec_txCkHi_ok (ha : nextAck s = .ok) (hp : s.phase = .txCkHi) :
    exec i s = .next (goto .txStop (busWrite (hiByte s.pktChecksum) s)) := by
  rw [exec_txCkHi hp, rowTxCkHi, withCall_none _ hc, writeOrAbort_ok ha]

theorem exec_txHdrWr_ok {b : Byte} (hb : headerByte s = some b) (ha : nextAck s = .ok) (hp : s.phase = .txHdrWr) :
    exec i s = afterHeaderWrite (busWrite b s) := by
  rw [exec_txHdrWr hp]
  simp only [rowTxHdrWr, hb, withCall_none _ hc, writeOrAbort_ok ha]

theorem exec_rxCkLo_returns (hp : s.phase = .rxCkLo) :
    exec i s = .next (goto .rxCkHi (setFrmChecksumLo (nextByte s) (busRead .ack s))) := by
  rw [exec_rxCkLo hp, rowRxCkLo, withCall_none _ hc]

theorem exec_rxCkHi_returns (hp : s.phase = .rxCkHi) :
    exec i s = .next (goto .rxStop (setFrmChecksumHi (nextByte s) (busRead .nack s))) := by
  rw [exec_rxCkHi hp, rowRxCkHi, withCall_none _ hc]

/-- The two checksum rows together assemble `FRM.CHECKSUM` as `hi ‖ lo` (30_encoding.md R66). -/
theorem exec_rxCk_assembles {lo hi : Byte} {rest : List Byte} (hp : s.phase = .rxCkLo) (hb : s.bytes = lo :: hi :: rest) :
    ∃ t u, exec i s = .next t ∧ exec i t = .next u ∧ u.phase = .rxStop ∧ u.frmChecksum = joinBytes hi lo := by
  obtain ⟨t, ht⟩ : ∃ t, t = goto .rxCkHi (setFrmChecksumLo (nextByte s) (busRead .ack s)) := ⟨_, rfl⟩
  have hbytes : t.bytes = hi :: rest := by simp [ht, hb]
  have hlow : loByte t.frmChecksum = lo := by simp [ht, nextByte_cons hb]
  exact ⟨t, _, ht ▸ exec_rxCkLo_returns hc hp, exec_rxCkHi_returns (by simp [ht, hc]) (by simp [ht]), rfl,
    by simp [nextByte_cons hbytes, hlow]⟩

end

/-- The header bytes 3 and 4 are `param2`, low byte first (30_encoding.md R64, R66). -/
theorem headerByte_three {s : State} (h : s.idx = 3#8) : headerByte s = some (loByte s.pktParam2) := by
  simp [headerByte, header, h]

theorem headerByte_four {s : State} (h : s.idx = 4#8) : headerByte s = some (hiByte s.pktParam2) := by
  simp [headerByte, header, h]

/-- Settles O30: the row of each field's byte is executed, and the byte it sends or stores is read as a number. -/
theorem sixteenBitFieldsLowByteFirst : Obligations.SixteenBitFieldsLowByteFirst := by
  refine ⟨?ckLo, ?ckHi, ?param2Lo, ?param2Hi, ?received⟩
  case ckLo =>
    intro i s rest hc ha hp
    have hok := nextAck_cons ha
    exact ⟨_, exec_txCkLo_ok hc hok hp, rfl, rfl, by simp [hok, loByte_eq_ofNat_mod]⟩
  case ckHi =>
    intro i s rest hc ha hp
    have hok := nextAck_cons ha
    exact ⟨_, exec_txCkHi_ok hc hok hp, rfl, by simp [hok, hiByte_eq_ofNat_div]⟩
  case param2Lo =>
    intro i s rest hc ha hp hi
    have hok := nextAck_cons ha
    have hstep := exec_txHdrWr_ok (i := i) hc (headerByte_three hi) hok hp
    rw [afterHeaderWrite_of_lt (by simp [hi])] at hstep
    exact ⟨_, hstep, rfl, by simp [hi], rfl, by simp [hok, loByte_eq_ofNat_mod]⟩
  case param2Hi =>
    intro i s rest hc ha hp hi
    have hok := nextAck_cons ha
    obtain ⟨t, hnext, htrace⟩ := afterHeaderWrite_trace (busWrite (hiByte s.pktParam2) s)
    exact ⟨t, (exec_txHdrWr_ok hc (headerByte_four hi) hok hp).trans hnext, by
      simp [htrace, hok, hiByte_eq_ofNat_div]⟩
  case received =>
    intro i s lo hi rest hc hp hb
    obtain ⟨t, u, hst, htu, hstop, hck⟩ := exec_rxCk_assembles (i := i) hc hp hb
    exact ⟨t, u, hst, htu, hstop, by rw [hck, toNat_joinBytes]⟩

end Sys2Proof.Machine
end

section
/-! SUPPORT. The command builder (41_command_builder.md): `INIT` and `SELFTEST DRBG` build one packet. -/

namespace Sys2Proof.Machine

/-- `INIT` and `SELFTEST DRBG` share their row of 30_encoding.md R67: opcode, both parameters and filler count. -/
theorem buildOf_init_eq_selftestDrbg (s : State) : buildOf .init s = buildOf .selftestDrbg s := by
  simp only [buildOf_eq, opcodeOf, param1Of, param2Of, fillerOf]

/-- Settles O13: in BUILD a step differs between operations only in the packet they build. -/
theorem initBuildsAsSelftestDrbg : Obligations.InitBuildsAsSelftestDrbg := by
  intro s hbuild
  rw [exec_build hbuild, exec_build hbuild, buildOf_init_eq_selftestDrbg]

end Sys2Proof.Machine
end

section
/-! SUPPORT. The frame receiver (43_frame_receiver.md R120): the reads a RECEIVE makes, the payload in `RXBUF`, the run of
RECEIVE in its three parts (up to the length byte, the payload, the checksum), and the statement about its verdict. -/

namespace Sys2Proof.Machine

/-! ### The reads of an event list -/

theorem readKinds_append (xs ys : List Event) : readKinds (xs ++ ys) = readKinds xs ++ readKinds ys :=
  List.filterMap_append

theorem readBytes_append (xs ys : List Event) : readBytes (xs ++ ys) = readBytes xs ++ readBytes ys :=
  List.filterMap_append

theorem readAndFeed_cons (b : Byte) (bs : List Byte) :
    readAndFeed (b :: bs) = ([.busRead .ack b, .crcUpdate b] : List Event) ++ readAndFeed bs := rfl

theorem readKinds_readAndFeed (bs : List Byte) : readKinds (readAndFeed bs) = List.replicate bs.length .ack := by
  induction bs with
  | nil => rfl
  | cons b bs ih =>
    rw [readAndFeed_cons, readKinds_append, ih]
    rfl

theorem readBytes_readAndFeed (bs : List Byte) : readBytes (readAndFeed bs) = bs := by
  induction bs with
  | nil => rfl
  | cons b bs ih =>
    rw [readAndFeed_cons, readBytes_append, ih]
    rfl

/-- Of the reads of a RECEIVE the last and only the last is `nack` (43_frame_receiver.md R122). -/
theorem readKinds_receiveEvents (c : Params) (len : Byte) (payload : List Byte) (lo hi : Byte) (ck : Word) :
    readKinds (receiveEvents c len payload lo hi ck) =
      List.replicate (payload.length + 2) AckKind.ack ++ [AckKind.nack] := by
  rw [receiveEvents, readKinds_append, readKinds_append, readKinds_readAndFeed, List.replicate_succ,
    List.replicate_succ', List.append_assoc, List.cons_append, List.append_assoc]
  rfl

theorem readBytes_receiveEvents (c : Params) (len : Byte) (payload : List Byte) (lo hi : Byte) (ck : Word) :
    readBytes (receiveEvents c len payload lo hi ck) = len :: (payload ++ [lo, hi]) := by
  rw [receiveEvents, readBytes_append, readBytes_append, readBytes_readAndFeed, List.append_assoc]
  rfl

/-! ### Consecutive bytes in a buffer -/

/-- The buffer with `bs` stored from index `i` on, in ascending order (43_frame_receiver.md R120). -/
def storeBytes (m : Memory) (i : Nat) (bs : List Byte) : Memory :=
  match bs with
  | [] => m
  | b :: rest => storeBytes (memWrite m i b) (i + 1) rest

/-- Stored bytes read back; every other index is left alone. -/
theorem memRead_storeBytes (m : Memory) (i : Nat) (bs : List Byte) (j : Nat) :
    memRead (storeBytes m i bs) j = if i ≤ j ∧ j < i + bs.length then bs[j - i]? else memRead m j := by
  induction bs generalizing m i with
  | nil => rw [storeBytes, if_neg (by simp)]
  | cons b rest ih =>
    rw [storeBytes, ih, List.length_cons]
    by_cases hj : j = i
    · subst hj
      rw [if_neg (by omega), if_pos (by omega)]
      simp
    · rw [memRead_memWrite_ne _ _ _ _ hj]
      by_cases hin : i + 1 ≤ j ∧ j < i + 1 + rest.length
      · rw [if_pos hin, if_pos (by omega), show j - i = j - (i + 1) + 1 by omega, List.getElem?_cons_succ]
      · rw [if_neg hin, if_neg (by omega)]

/-! ### The payload loop -/

/-- The state between the two rows of the payload loop: a byte read and stored. -/
def payloadStored (s : State) : State :=
  goto .rxPayUpd (writeByte .rxbuf s.idx.toNat (nextByte s) (busRead .ack s))

/-- The state after one round of the payload loop, before the phase is chosen: the stored byte is fed and counted. -/
def payloadRound (s : State) : State :=
  setIdx (s.idx + 1#8) (crcUpdate (nextByte s) (payloadStored s))

section
variable (s : State)

@[simp] theorem payloadRound_cmd : (payloadRound s).cmd = s.cmd := by
  simp [payloadRound, payloadStored]
@[simp] theorem payloadRound_cfg : (payloadRound s).cfg = s.cfg := by
  simp [payloadRound, payloadStored]
@[simp] theorem payloadRound_callsLeft : (payloadRound s).callsLeft = s.callsLeft := by
  simp [payloadRound, payloadStored]
@[simp] theorem payloadRound_frmLength : (payloadRound s).frmLength = s.frmLength := by
  simp [payloadRound, payloadStored]
@[simp] theorem payloadRound_eng : (payloadRound s).eng = engUpdate s.eng (nextByte s) := by
  simp [payloadRound, payloadStored]
@[simp] theorem payloadRound_rxbuf : (payloadRound s).rxbuf = memWrite s.rxbuf s.idx.toNat (nextByte s) := by
  simp [payloadRound, payloadStored]
@[simp] theorem payloadRound_trace :
    (payloadRound s).trace = s.trace ++ readAndFeed [nextByte s] := by
  simp [payloadRound, payloadStored, readAndFeed]

end

/-- A round at a payload byte of the frame counts `IDX` up, without wrapping. -/
theorem payloadRound_idx {s : State} (hi : s.idx.toNat < payloadLen s) :
    (payloadRound s).idx.toNat = s.idx.toNat + 1 :=
  idx_succ (Nat.lt_of_lt_of_le hi (Nat.le_trans (payloadLen_le s) (by decide)))

/-- `t` comes from `s` by reading the payload bytes `bs`: each is fed to the engine, and they are stored in `RXBUF` from
`IDX` on as read (43_frame_receiver.md R120, R124). -/
structure PayloadRead (bs : List Byte) (s t : State) : Prop where
  cmd : t.cmd = s.cmd
  cfg : t.cfg = s.cfg
  callsLeft : t.callsLeft = s.callsLeft
  frmLength : t.frmLength = s.frmLength
  rxbuf : t.rxbuf = storeBytes s.rxbuf s.idx.toNat bs
  eng : t.eng = bs.foldl engUpdate s.eng
  trace : t.trace = s.trace ++ readAndFeed bs

/-- A frame without payload: nothing is read, wherever the sequencer goes. -/
theorem PayloadRead.nil (s : State) (p : Phase) : PayloadRead [] s (goto p s) :=
  ⟨rfl, rfl, rfl, rfl, rfl, rfl, by simp [readAndFeed]⟩

/-- What is read does not depend on the phase the reading starts in. -/
theorem PayloadRead.of_goto {p : Phase} {s t : State} {bs : List Byte} (h : PayloadRead bs (goto p s) t) :
    PayloadRead bs s t := { h with }

/-- Reading `bs` after one round of the loop is reading the round's byte and then `bs`. -/
theorem PayloadRead.cons {s t : State} {bs : List Byte} (hi : s.idx.toNat < payloadLen s)
    (h : PayloadRead bs (payloadRound s) t) : PayloadRead (nextByte s :: bs) s t where
  cmd := by simp [h.cmd]
  cfg := by simp [h.cfg]
  callsLeft := by simp [h.callsLeft]
  frmLength := by simp [h.frmLength]
  rxbuf := by simp [h.rxbuf, storeBytes, payloadRound_idx hi]
  eng := by simp [h.eng]
  trace := by simp [h.trace, readAndFeed]

/-! ### Before and after the payload -/

/-- `t` comes from `s` by the rows of RECEIVE before the payload: the engine is started, the read transaction opened, and
the length byte read (43_frame_receiver.md R120). -/
structure LengthRead (s t : State) : Prop where
  phase : t.phase = .rxLenUpd
  cmd : t.cmd = s.cmd
  cfg : t.cfg = s.cfg
  callsLeft : t.callsLeft = s.callsLeft
  rxbuf : t.rxbuf = s.rxbuf
  eng : t.eng = engInit s.cfg.crcSeed
  trace : t.trace = s.trace ++
    ([.crcInit s.cfg.crcSeed, .busStart, .busAddress s.cfg.devAddr .read, .busRead .ack t.frmLength] : List Event)

/-- `t` comes from `s` by the rows of RECEIVE after the payload: the trailing bytes `lo` and `hi` make `FRM.CHECKSUM`, the
transaction is closed, and the engine's result is `CALC`, which judges the frame (43_frame_receiver.md R123). -/
structure FrameJudged (lo hi : Byte) (s t : State) : Prop where
  phase : t.phase = .classify
  frmLength : t.frmLength = s.frmLength
  rxbuf : t.rxbuf = s.rxbuf
  frmChecksum : t.frmChecksum = joinBytes hi lo
  calcReg : t.calcReg = crcValue s
  frmValid : t.frmValid = frameValid t.calcReg t.frmChecksum
  trace : t.trace = s.trace ++
    ([.busRead .ack lo, .busRead .nack hi, .busStop, .crcResult (crcValue s)] : List Event)

/-! ### The run of RECEIVE, part by part -/

section
variable {i : Instr} {s : State} (hd : decode s.cmd = .ok i) (hc : s.callsLeft = none)
include hd hc

/-- The two rows of the payload loop make one round; the length says whether another follows (10_state.md R32). -/
theorem run_payloadRound (hp : s.phase = .rxPayRd) (hi : s.idx.toNat < payloadLen s) (hroom : 252 ≤ s.cfg.rxbufSize) :
    Host.Core.run Sys2Proof.core 2 s =
      .next (goto (if s.idx.toNat + 1 < payloadLen s then .rxPayRd else .rxCkLo) (payloadRound s)) := by
  have hin : s.idx.toNat < s.cfg.rxbufSize := Nat.lt_of_lt_of_le hi (Nat.le_trans (payloadLen_le s) hroom)
  have hread : step s = .next (payloadStored s) := step_rxPayRd hd hc hp hin
  have hupd := step_rxPayUpd (i := i) (s := payloadStored s)
    (by simp [payloadStored, hd]) (by simp [payloadStored, hc]) rfl (by simp [payloadStored, hin])
  have hlen : payloadLen (payloadStored s) = payloadLen s := by simp [payloadStored, payloadLen]
  have hidx : (payloadStored s).idx = s.idx := by simp [payloadStored]
  have hbyte : readByte .rxbuf s.idx.toNat (payloadStored s) = nextByte s := by simp [payloadStored, readByte, buffer]
  rw [hidx, hlen, hbyte] at hupd
  rw [run_step hread, run_step hupd, run_zero, payloadRound]

/-- From any payload byte of the frame the loop reads the bytes still missing and goes on to the checksum. -/
theorem run_payloadLoop {n : Nat} (hp : s.phase = .rxPayRd) (hn : s.idx.toNat + (n + 1) = payloadLen s)
    (hroom : 252 ≤ s.cfg.rxbufSize) :
    ∃ (k : Nat) (bs : List Byte) (t : State), Host.Core.run Sys2Proof.core k s = .next t ∧ t.phase = .rxCkLo ∧
      bs.length = n + 1 ∧ PayloadRead bs s t := by
  induction n generalizing s with
  | zero =>
    have hround := run_payloadRound hd hc hp (by omega) hroom
    rw [if_neg (by omega)] at hround
    exact ⟨2, [nextByte s], _, hround, rfl, rfl, .cons (by omega) (.nil _ _)⟩
  | succ n ih =>
    have hround := run_payloadRound hd hc hp (by omega) hroom
    rw [if_pos (by omega)] at hround
    have hidx := payloadRound_idx (s := s) (by omega)
    have hrest : (payloadRound s).idx.toNat + (n + 1) = payloadLen (payloadRound s) := by
      rw [hidx, payloadLen, payloadRound_frmLength, ← payloadLen]
      omega
    obtain ⟨k, bs, t, hrun, htp, hbs, hpay⟩ :=
      ih (s := goto .rxPayRd (payloadRound s)) (by simp [hd]) (by simp [hc]) rfl hrest (by simp [hroom])
    exact ⟨2 + k, nextByte s :: bs, t, run_append hround hrun, htp, by simp [hbs], .cons (by omega) hpay.of_goto⟩

/-- After the length byte is fed to the engine the payload of that length is read, none at all for `m = 0`. -/
theorem run_lengthAndPayload (hp : s.phase = .rxLenUpd) (hroom : 252 ≤ s.cfg.rxbufSize) :
    ∃ (k : Nat) (bs : List Byte) (t : State), Host.Core.run Sys2Proof.core k s = .next t ∧ t.phase = .rxCkLo ∧
      bs.length = payloadLen s ∧ PayloadRead bs (setIdx 0#8 (crcUpdate s.frmLength s)) t := by
  have hfeed := step_rxLenUpd hd hc hp
  cases hm : payloadLen s with
  | zero =>
    rw [if_neg (by omega)] at hfeed
    exact ⟨1, [], _, run_step hfeed, rfl, rfl, .nil _ _⟩
  | succ n =>
    rw [if_pos (by omega)] at hfeed
    obtain ⟨k, bs, t, hrun, htp, hbs, hpay⟩ := run_payloadLoop (i := i) (n := n)
      (s := goto .rxPayRd (setIdx 0#8 (crcUpdate s.frmLength s))) (by simp [hd]) (by simp [hc]) rfl
      (by simpa [payloadLen] using hm.symm) (by simpa using hroom)
    exact ⟨k + 1, bs, t, (run_step hfeed).trans hrun, htp, hbs, hpay.of_goto⟩

/-- RECEIVE up to its first read. -/
theorem run_receiveOpening (hp : s.phase = .rxCrcInit) :
    ∃ t : State, Host.Core.run Sys2Proof.core 4 s = .next t ∧ LengthRead s t := by
  have hinit := step_rxCrcInit hd hc hp
  have hstart := step_rxStart (i := i) (s := goto .rxStart (crcInit s)) (by simp [hd]) (by simp [hc]) rfl
  have haddr := step_rxAddr (i := i) (s := goto .rxAddr (busStart (goto .rxStart (crcInit s))))
    (by simp [hd]) (by simp [hc]) rfl
  have hread := step_rxLenRd (i := i)
    (s := goto .rxLenRd (busAddress .read (goto .rxAddr (busStart (goto .rxStart (crcInit s))))))
    (by simp [hd]) (by simp [hc]) rfl
  refine ⟨_, (run_step hinit).trans <| (run_step hstart).trans <| (run_step haddr).trans (run_step hread), ?_⟩
  constructor <;> simp [hc]

/-- RECEIVE from its first trailing byte on. -/
theorem run_receiveClosing (hp : s.phase = .rxCkLo) :
    ∃ (t : State) (lo hi : Byte), Host.Core.run Sys2Proof.core 4 s = .next t ∧ FrameJudged lo hi s t := by
  obtain ⟨u, hu⟩ : ∃ u, u = goto .rxCkHi (setFrmChecksumLo (nextByte s) (busRead .ack s)) := ⟨_, rfl⟩
  have hlo : step s = .next u := hu ▸ step_rxCkLo hd hc hp
  have hdu : decode u.cmd = .ok i := by simp [hu, hd]
  have hcu : u.callsLeft = none := by simp [hu, hc]
  have hhi := step_rxCkHi hdu hcu (by simp [hu])
  have hstop := step_rxStop (i := i) (s := goto .rxStop (setFrmChecksumHi (nextByte u) (busRead .nack u)))
    (by simp [hdu]) (by simp [hcu]) rfl
  have hres := step_rxCrcRes (i := i)
    (s := goto .rxCrcRes (busStop (goto .rxStop (setFrmChecksumHi (nextByte u) (busRead .nack u)))))
    (by simp [hdu]) (by simp [hcu]) rfl
  refine ⟨_, nextByte s, nextByte u,
    (run_step hlo).trans <| (run_step hhi).trans <| (run_step hstop).trans (run_step hres), ?_⟩
  constructor <;> simp [hu, crcValue]

end

/-- Settles O29: RECEIVE is its opening, the payload loop and its closing; the events of the three parts together are
those of 43_frame_receiver.md R120, and the reads are read off them. -/
theorem receivedFrameIsJudgedByItsChecksum : Obligations.ReceivedFrameIsJudgedByItsChecksum := by
  intro s i hroom hp hd hc
  obtain ⟨u, hopen, hu⟩ := run_receiveOpening hd hc hp
  obtain ⟨k, payload, v, hpay, hvp, hlen, hv⟩ := run_lengthAndPayload (i := i) (s := u) (by rw [hu.cmd, hd])
    (by rw [hu.callsLeft, hc]) hu.phase (by rw [hu.cfg]; exact hroom)
  obtain ⟨t, lo, hi, hclose, ht⟩ :=
    run_receiveClosing (i := i) (s := v) (by simp [hv.cmd, hu.cmd, hd]) (by simp [hv.callsLeft, hu.callsLeft, hc]) hvp
  have hframe : t.frmLength = u.frmLength := by simp [ht.frmLength, hv.frmLength]
  have hcalc : crcValue v = crcOf s.cfg (t.frmLength :: payload) := by
    simp [crcValue, crcOf, hv.eng, hv.cfg, hu.cfg, hu.eng, hframe]
  have htrace : t.trace = s.trace ++ receiveEvents s.cfg t.frmLength payload lo hi (crcValue v) := by
    simp [ht.trace, hv.trace, hu.trace, hframe, receiveEvents]
  refine ⟨4 + k + 4, t, payload, lo, hi, _, run_append (run_append hopen hpay) hclose, ht.phase, htrace,
    ?count, readKinds_receiveEvents .., readBytes_receiveEvents .., ?assembly, ht.calcReg.trans hcalc, ?verdict,
    fun j => ?payload⟩
  case count =>
    intro _
    rw [hlen, hframe]
    rfl
  case assembly => rw [ht.frmChecksum, toNat_joinBytes]
  case verdict => rw [ht.frmValid, frameValid, decide_eq_true_iff]
  case payload => simp [ht.rxbuf, hv.rxbuf, hu.rxbuf, memRead_storeBytes]

end Sys2Proof.Machine
end

section
/-! SUPPORT. Host command words (30_encoding.md sections 1 and 6): the fields of a word as numbers, a word put together from
its fields, when the decoder answers what, and the statements about the decoder. -/

namespace Sys2Proof

/-! ### The fields of a word -/

theorem toNat_hcOp (w : Word) : (hcOp w).toNat = w.toNat % 8 := by simp [hcOp]

theorem toNat_hcVariant (w : Word) : (hcVariant w).toNat = w.toNat / 8 % 4 := by
  simp [hcVariant, Nat.shiftRight_eq_div_pow]

theorem toNat_hcReserved (w : Word) : (hcReserved w).toNat = w.toNat / 32 % 8 := by
  simp [hcReserved, Nat.shiftRight_eq_div_pow]

theorem toNat_hcFilln (w : Word) : (hcFilln w).toNat = w.toNat / 256 := by
  simp only [hcFilln, BitVec.extractLsb'_toNat, Nat.shiftRight_eq_div_pow]
  omega

theorem toNat_append_eq_add {m n : Nat} (x : BitVec m) (y : BitVec n) : (x ++ y).toNat = x.toNat * 2 ^ n + y.toNat := by
  rw [BitVec.toNat_append, ← Nat.shiftLeft_add_eq_or_of_lt y.isLt, Nat.shiftLeft_eq]

theorem toNat_hcWord (filln : Byte) (variant : BitVec 2) (op : BitVec 3) :
    (hcWord filln variant op).toNat = 256 * filln.toNat + 8 * variant.toNat + op.toNat := by
  simp only [hcWord, toNat_append_eq_add, BitVec.toNat_ofNat]
  omega

section
variable (filln : Byte) (variant : BitVec 2) (op : BitVec 3)

@[simp] theorem hcOp_hcWord : hcOp (hcWord filln variant op) = op := by
  apply BitVec.eq_of_toNat_eq
  rw [toNat_hcOp, toNat_hcWord]
  omega

@[simp] theorem hcVariant_hcWord : hcVariant (hcWord filln variant op) = variant := by
  apply BitVec.eq_of_toNat_eq
  rw [toNat_hcVariant, toNat_hcWord]
  omega

@[simp] theorem hcReserved_hcWord : hcReserved (hcWord filln variant op) = 0#3 := by
  apply BitVec.eq_of_toNat_eq
  rw [toNat_hcReserved, toNat_hcWord, BitVec.toNat_ofNat]
  omega

@[simp] theorem hcFilln_hcWord : hcFilln (hcWord filln variant op) = filln := by
  apply BitVec.eq_of_toNat_eq
  rw [toNat_hcFilln, toNat_hcWord]
  omega

end

/-- A word without reserved bits is put together from its other three fields. -/
theorem hcWord_fields {w : Word} (h : hcReserved w = 0#3) : hcWord (hcFilln w) (hcVariant w) (hcOp w) = w := by
  have hr : w.toNat / 32 % 8 = 0 := by rw [← toNat_hcReserved, h]; rfl
  apply BitVec.eq_of_toNat_eq
  rw [toNat_hcWord, toNat_hcFilln, toNat_hcVariant, toNat_hcOp]
  omega

/-! ### The decoder -/

/-- Settles O2: the decoder reads the fields that the encoder puts together. -/
theorem decodeEncodeAgree : Obligations.DecodeEncodeAgree := by
  intro i hwf
  cases i with
  | random n =>
    have hn : ¬ n.toNat > maxFiller := Nat.not_lt.2 (of_decide_eq_true hwf)
    simp [encode, decode, hn]
  | _ => simp [encode, decode, decodeVariant]

/-- The operation codes that R75 leaves legal, besides the four the decoder asks for by name. -/
theorem eq_serialCode : ∀ op : BitVec 3, ¬(op = 0#3 ∨ op = 6#3 ∨ op = 7#3) → op ≠ 4#3 → op ≠ 2#3 → op ≠ 1#3 → op ≠ 3#3 →
    op = 5#3 := by decide

/-- The variants the decoder accepts (30_encoding.md R62). -/
theorem decodeVariant_ok {v : BitVec 2} {i : Instr} (h : decodeVariant v = .ok i) :
    i.wf = true ∧ hcWord 0#8 v 2#3 = encode i := by
  unfold decodeVariant at h
  split_ifs at h with h0 h1 h2 <;> cases h
  · exact ⟨rfl, h0 ▸ rfl⟩
  · exact ⟨rfl, h1 ▸ rfl⟩
  · exact ⟨rfl, h2 ▸ rfl⟩

/-- What the fields of a word are where the decoder accepts it. -/
theorem decode_ok_fields {w : Word} {i : Instr} (h : decode w = .ok i) :
    hcReserved w = 0#3 ∧ i.wf = true ∧ hcWord (hcFilln w) (hcVariant w) (hcOp w) = encode i := by
  unfold decode at h
  split_ifs at h with hr hop h4 hv hn hf h2 hv h1 h3
  all_goals rw [ne_eq, not_not] at hr
  case neg => -- RANDOM
    cases h
    rw [ne_eq, not_not] at hv
    exact ⟨hr, decide_eq_true (Nat.not_lt.1 hn), by rw [h4, hv]; rfl⟩
  all_goals rw [ne_eq, not_not] at hf
  case pos => -- SELFTEST
    obtain ⟨hwf, hword⟩ := decodeVariant_ok h
    exact ⟨hr, hwf, by rw [hf, h2, hword]⟩
  all_goals rw [ne_eq, not_not] at hv; cases h; rw [hf, hv]
  case pos => exact ⟨hr, rfl, by rw [h1]; rfl⟩
  case pos => exact ⟨hr, rfl, by rw [h3]; rfl⟩
  case neg => exact ⟨hr, rfl, by rw [eq_serialCode _ hop h4 h2 h1 h3]; rfl⟩

/-- Settles O3: the fields of a word that decodes are those of the operation's word, and they determine the word. -/
theorem decodedWordIsItsEncoding : Obligations.DecodedWordIsItsEncoding := by
  intro w i h
  obtain ⟨hr, hwf, hword⟩ := decode_ok_fields h
  exact ⟨hwf, hword.symm.trans (hcWord_fields hr)⟩

/-- The fields of the command word of an operation, one of Laws.CommandWord for each constructor. -/
theorem commandWord_statement (i : Instr) : Laws.CommandWord.Statement i := by
  cases i with
  | init => exact Laws.CommandWord.init
  | selftestDrbg => exact Laws.CommandWord.selftestDrbg
  | selftestSha => exact Laws.CommandWord.selftestSha
  | selftestDrbgSha => exact Laws.CommandWord.selftestDrbgSha
  | info => exact Laws.CommandWord.info
  | random n => exact Laws.CommandWord.random n
  | serial => exact Laws.CommandWord.serial

/-- A well-formed operation has at most 248 fillers (30_encoding.md R65). -/
theorem fillerOf_le {i : Instr} (h : i.wf = true) : (Machine.fillerOf i).toNat ≤ 248 := by
  cases i with
  | random n => exact of_decide_eq_true h
  | _ => decide

/-- The illegal-word clauses of 30_encoding.md R75, on the fields of the word. -/
def IllegalFields (filln : Byte) (reserved : BitVec 3) (variant : BitVec 2) (op : BitVec 3) : Prop :=
  op = 0#3 ∨ op = 6#3 ∨ op = 7#3 ∨ reserved ≠ 0#3 ∨ (op = 2#3 ∧ variant = 3#2) ∨ (op ≠ 2#3 ∧ variant ≠ 0#2) ∨
    (op ≠ 4#3 ∧ filln ≠ 0#8) ∨ (op = 4#3 ∧ filln.toNat > 248)

/-- No clause holds of an accepted word: its fields are those of an operation's word. -/
theorem legalFields_of_decode {w : Word} {i : Instr} (h : decode w = .ok i) :
    ¬ IllegalFields (hcFilln w) (hcReserved w) (hcVariant w) (hcOp w) := by
  obtain ⟨hr, hwf, hword⟩ := decode_ok_fields h
  rw [hcWord_fields hr] at hword
  obtain ⟨-, hop, hv2, hv3, hf, hf4⟩ := commandWord_statement i
  have hn := fillerOf_le hwf
  rw [← hword] at hop hv2 hv3 hf hf4
  rw [← hf] at hn
  rintro (h0 | h6 | h7 | hres | ⟨-, hv⟩ | ⟨ho, hv⟩ | ⟨ho, hfl⟩ | ⟨-, hfl⟩)
  · simp [h0] at hop
  · simp [h6] at hop
  · simp [h7] at hop
  · exact hres hr
  · exact hv3 hv
  · exact ho (hv2 hv)
  · exact ho (hf4 hfl)
  · omega

theorem variant_eq_three : ∀ v : BitVec 2, v ≠ 0#2 → v ≠ 1#2 → v ≠ 2#2 → v = 3#2 := by decide

/-- A rejected word meets the clause the decoder stopped at. -/
theorem illegalFields_of_decode {w : Word} {e : Illegal} (h : decode w = .error e) :
    IllegalFields (hcFilln w) (hcReserved w) (hcVariant w) (hcOp w) := by
  unfold decode decodeVariant maxFiller at h
  unfold IllegalFields
  split_ifs at h with hr hop h4 hv hn hf h2 v0 v1 v2 hv
  · exact .inr (.inr (.inr (.inl hr)))
  · tauto
  · have h2 : hcOp w ≠ 2#3 := by rw [h4]; decide
    tauto
  · tauto
  · tauto
  · have h3 := variant_eq_three _ v0 v1 v2
    tauto
  · tauto

theorem decode_error_iff (w : Word) :
    (∃ e, decode w = .error e) ↔ IllegalFields (hcFilln w) (hcReserved w) (hcVariant w) (hcOp w) := by
  constructor
  · rintro ⟨e, h⟩
    exact illegalFields_of_decode h
  · intro hill
    cases hd : decode w with
    | ok i => exact absurd hill (legalFields_of_decode hd)
    | error e => exact ⟨e, rfl⟩

/-- Settles O4: the clauses on the fields are the clauses on the number. -/
theorem illegalWordsAreRejected : Obligations.IllegalWordsAreRejected := by
  intro w
  rw [decode_error_iff]
  simp only [IllegalFields, ne_eq, BitVec.toNat_eq, toNat_hcOp, toNat_hcVariant, toNat_hcReserved, toNat_hcFilln,
    BitVec.toNat_ofNat]

/-- Settles O1: each word's fields are read off and the decoder's clauses are tried in order. -/
theorem commandWordsDecodeAsTabled : Obligations.CommandWordsDecodeAsTabled := by
  unfold Obligations.CommandWordsDecodeAsTabled
  decide

end Sys2Proof
end

section
/-! SUPPORT. The step in `IDLE` (44_operations.md section 1), reset, and the host's reads (10_state.md sections 7 and 10). -/

namespace Sys2Proof.Machine

/-! ### Command words in IDLE -/

/-- In `IDLE` with `BUSY = 0` the host's next word is taken from its program. -/
theorem takeWord_idle {s : State} {w : Word} {rest : List Word} (hp : s.phase = .idle) (hb : s.busy = false)
    (hw : s.program = w :: rest) : takeWord s = setProgram rest s := by
  simp [takeWord, ready, hp, hb, hw]

theorem commandWord_idle {s : State} {w : Word} {rest : List Word} (hp : s.phase = .idle) (hb : s.busy = false)
    (hw : s.program = w :: rest) : commandWord s = some w := by
  simp [commandWord, hp, hb, hw]

/-- A legal word: the step is the operation's, the word gone from the program (10_state.md R11). -/
theorem step_idle_legal {s : State} {w : Word} {rest : List Word} {i : Instr} (hp : s.phase = .idle) (hb : s.busy = false)
    (hw : s.program = w :: rest) (hd : decode w = .ok i) : step s = exec i (setProgram rest s) := by
  simp only [step, commandWord_idle hp hb hw, hd, takeWord_idle hp hb hw]

/-- An illegal word: the step rejects it (60_exceptions.md R160). -/
theorem step_idle_illegal {s : State} {w : Word} {rest : List Word} {e : Illegal} (hp : s.phase = .idle)
    (hb : s.busy = false) (hw : s.program = w :: rest) (hd : decode w = .error e) :
    step s = .next (reject (setProgram rest s)) := by
  have hidle : (setProgram rest s).phase = .idle := hp
  simp only [step, commandWord_idle hp hb hw, hd, takeWord_idle hp hb hw, undecodable, hidle]

/-- With no word to take the step waits (10_state.md R21). -/
theorem step_idle_waits {s : State} (hp : s.phase = .idle) (hw : s.program = [] ∨ s.busy = true) : step s = .next s := by
  have hnone : commandWord s = none := by
    rcases hw with hw | hw <;> simp [commandWord, hp, hw]
  simp only [step, hnone]

/-- A well-formed operation issued in `IDLE` with `BUSY = 0` is accepted. -/
theorem exec_idle_accepts {i : Instr} {s : State} (hwf : i.wf = true) (hp : s.phase = .idle) (hb : s.busy = false) :
    exec i s = .next (accept (encode i) s) := by
  rw [exec_idle hp, issue_legal hb (decodeEncodeAgree i hwf)]

/-- Settles O5. -/
theorem stepRunsDecodedCommand : Obligations.StepRunsDecodedCommand := by
  intro s w i hd
  refine ⟨fun hp hb rest hw => step_idle_legal hp hb hw hd, fun hp hw => step_busy hp ?_⟩
  rw [hw, hd]

/-- Settles O6: the code and the count of free values are those that `reject` draws. -/
theorem illegalWordIsRejected : Obligations.IllegalWordIsRejected := by
  intro s w e rest hd hp hb hw
  exact ⟨Config.freeCode s.draws, s.draws + 1, step_idle_illegal hp hb hw hd⟩

/-- Settles O7. -/
theorem idleWaitsForTheHost : Obligations.IdleWaitsForTheHost :=
  fun _ hp hw => step_idle_waits hp hw

/-- Settles O8. -/
theorem wordWhileBusyChangesNothing : Obligations.WordWhileBusyChangesNothing :=
  fun _ _ hb => if_pos hb

/-- Settles O9: the operation's own word decodes, so `issue` accepts it. -/
theorem acceptedCommandStartsBuild : Obligations.AcceptedCommandStartsBuild :=
  fun _ _ hwf hp hb => exec_idle_accepts hwf hp hb

/-! ### Reset -/

/-- Settles O11: `applyReset` takes each control register from the reset state and the rest from the state before. -/
theorem resetEventTouchesNoCollaborator : Obligations.ResetEventTouchesNoCollaborator :=
  fun _ => ⟨rfl, rfl, rfl, rfl, rfl, rfl, rfl, rfl, rfl, rfl⟩

/-- Settles O54: each literal stands in `Config.platform`. -/
theorem configurationHasTheDocumentsLiterals : Obligations.ConfigurationHasTheDocumentsLiterals :=
  ⟨rfl, rfl, rfl, rfl, rfl, rfl, rfl, rfl, rfl, rfl, rfl, rfl, rfl, rfl, rfl, rfl, by
    refine ⟨?_, ?_, ?_, ?_⟩ <;> decide⟩

/-! ### Host reads -/

theorem setWidth_ofBool (b : Bool) : (BitVec.ofBool b).setWidth 16 = if b = true then 1#16 else 0#16 := by
  cases b <;> rfl

/-- A byte no step has written reads as its free value (10_state.md R31). -/
theorem readByte_unwritten {sp : Space} {j : Nat} {s : State} (h : memRead (buffer sp s) j = none) :
    readByte sp j s = Config.unwritten sp j := by
  rw [readByte, h, Option.getD_none]

/-- A byte a step has written reads as written. -/
theorem readByte_written {sp : Space} {j : Nat} {b : Byte} {s : State} (h : memRead (buffer sp s) j = some b) :
    readByte sp j s = b := by
  rw [readByte, h, Option.getD_some]

/-- After reset a byte of a register file reads as its free value. -/
theorem readBuffer_reset {sp : Space} {j : Nat} (hj : j < spaceSize State.reset.cfg sp) :
    readBuffer sp j State.reset = .ok ((Config.unwritten sp j).setWidth 16) := by
  rw [readBuffer_inside hj, readByte_unwritten]
  cases sp <;> rfl

/-- Settles O10: each register the reset state leaves unspecified is marked unwritten, and its buffers list nothing. -/
theorem resetLeavesControlStateDefined : Obligations.ResetLeavesControlStateDefined := by
  have hread : ∀ r, hostRead r State.reset = readIdle r State.reset := hostRead_idle rfl
  have hmarks : State.reset.written = ⟨false, false, false, false, false, false⟩ := rfl
  have hkind : State.reset.resKind = .none := rfl
  refine ⟨rfl, rfl, rfl, rfl, rfl, rfl, rfl, rfl, ?_, ?_, fun j hj => ?_, fun j hj => ?_, fun j hj => ?_⟩
  · simp [hread, readIdle, hmarks, hkind, resCodeSpecified]
  · simp [hread, readIdle, hmarks]
  all_goals rw [hread]; exact readBuffer_reset hj

/-- Settles O49: `hostRead` tests for `BUSY` first, then for `BUSY = 1`. -/
theorem hostReadsWhileBusyAreRefused : Obligations.HostReadsWhileBusyAreRefused := by
  intro s r
  refine ⟨?_, fun hb hr => ?_, fun hb => ?_⟩
  · rw [hostRead, if_pos rfl, setWidth_ofBool]
  · rw [hostRead, if_neg hr, if_pos hb]
  · rw [hostRead_idle hb, hostRead_idle hb]
    exact ⟨rfl, rfl⟩

/-- Settles O50. -/
theorem hostReadsTheOutcome : Obligations.HostReadsTheOutcome := by
  intro s hb
  have hkind : ∀ k, s.resKind = k → hostRead .resKind s = .ok ((resKindCode k).setWidth 16) := by
    rintro _ rfl
    exact hostRead_idle hb _
  refine ⟨hkind _, hkind _, hkind _, hkind _, hkind _, hkind _, hkind _, ?_⟩
  rw [hostRead_idle hb, readIdle]
  cases s.resKind <;> simp [resCodeSpecified]

/-- Settles O51: each register's read is the value or the free value, by its mark in `written`. -/
theorem hostReadsTheRegisters : Obligations.HostReadsTheRegisters := by
  intro s hb free free8
  simp only [hostRead_idle hb, readIdle, setWidth_ofBool]
  refine ⟨trivial, trivial, ?packet, ?_, ?_, ?_, ?_, ?info⟩
  case packet => cases s.written.packet <;> simp [free, free8]
  case info => cases s.written.info <;> simp [free8, free]
  · cases s.written.pktChecksum <;> simp [free]
  · cases s.written.frmLength <;> simp [free8, free]
  · cases s.written.frmChecksum <;> simp [free]
  · cases s.written.calcReg <;> simp [free]

/-- A host read of a byte of a register file: as written, or a free value; outside the file there is no register. -/
theorem readBuffer_eq (sp : Space) (j : Nat) (s : State) :
    (spaceSize s.cfg sp ≤ j → readBuffer sp j s = .error .noSuchRegister) ∧
    (j < spaceSize s.cfg sp → readBuffer sp j s = match memRead (buffer sp s) j with
      | some b => .ok (b.setWidth 16)
      | none => .ok ((Config.unwritten sp j).setWidth 16)) := by
  refine ⟨readBuffer_outside, fun hj => ?_⟩
  rw [readBuffer_inside hj]
  cases hm : memRead (buffer sp s) j with
  | none => rw [readByte_unwritten hm]
  | some b => rw [readByte_written hm]

/-- Settles O52: the three register files are read alike. -/
theorem hostReadsTheBuffers : Obligations.HostReadsTheBuffers := by
  intro s j hb
  simp only [hostRead_idle hb, readIdle]
  have hrx := readBuffer_eq .rxbuf j s
  have hrnd := readBuffer_eq .rnd j s
  have hser := readBuffer_eq .ser j s
  exact ⟨hrx.1, hrnd.1, hser.1, hrx.2, hrnd.2, hser.2⟩

/-- No number above 22 names a register (10_state.md R24). -/
theorem hostRegOf_above (n j : Nat) : hostRegOf (n + 23) j = none := rfl

/-- Settles O53. -/
theorem hostRegisterNumbers : Obligations.HostRegisterNumbers := by
  intro s j
  refine ⟨rfl, rfl, rfl, rfl, rfl, rfl, rfl, fun n hn => ?_⟩
  obtain ⟨m, rfl⟩ := Nat.exists_eq_add_of_le' hn
  rw [hostReadNumber, hostRegOf_above]

end Sys2Proof.Machine
end

section
/-! SUPPORT. The rows that make no bus transfer: BUILD, WAIT, CLASSIFY, INITMAP, DONE (41_command_builder.md,
44_operations.md), and the payload rows outside the receive buffer. -/

namespace Sys2Proof.Machine

/-! ### BUILD, WAIT, DONE -/

/-- `COUNT = 7 + n` fits 8 bits up to 248 fillers (30_encoding.md R65). -/
theorem toNat_seven_add {n : Byte} (h : n.toNat ≤ 248) : (7#8 + n).toNat = 7 + n.toNat := by
  rw [BitVec.toNat_add, BitVec.toNat_ofNat]
  omega

/-- Settles O12: `buildOf` writes the operation's row, and a well-formed operation's count does not wrap. -/
theorem buildWritesThePacket : Obligations.BuildWritesThePacket := by
  intro i s hwf hp
  refine ⟨fun hover => ?_, ?_⟩
  · rw [hover, toNat_seven_add (fillerOf_le hwf)]
  · rw [exec_build hp, buildOf_eq]
    rfl

/-- Settles O14. -/
theorem waitDelaysTheSettleTime : Obligations.WaitDelaysTheSettleTime := by
  intro i s hp hc
  rw [exec_wait hp, rowWait, withCall_returns _ hc]
  rfl

/-- Settles O22. -/
theorem doneReleasesTheHost : Obligations.DoneReleasesTheHost :=
  fun _ _ hp => exec_done hp

/-! ### CLASSIFY and INITMAP -/

/-- Arm 1 (44_operations.md R132). -/
theorem classifyFrame_standard {expected : Option Byte} {deliver : State → State} {s : State} (hv : s.frmValid = true)
    (hl : s.frmLength = s.cfg.frameStd) :
    classifyFrame expected deliver s = setRes .status (readByte .rxbuf 0 s) s :=
  if_pos ⟨hv, hl⟩

/-- Arm 2: the expected length, where it is not the standard one. -/
theorem classifyFrame_success {expected : Option Byte} {deliver : State → State} {s : State} (hv : s.frmValid = true)
    (hl : s.frmLength ≠ s.cfg.frameStd) (he : expected = some s.frmLength) :
    classifyFrame expected deliver s = setRes .success s.cfg.stSuccess (deliver s) :=
  (if_neg fun h => hl h.2).trans (if_pos ⟨hv, he⟩)

/-- Arm 3: an invalid frame, or one of another length. -/
theorem classifyFrame_otherError {expected : Option Byte} {deliver : State → State} {s : State}
    (h : s.frmValid = false ∨ (s.frmLength ≠ s.cfg.frameStd ∧ expected ≠ some s.frmLength)) :
    classifyFrame expected deliver s = setRes .otherError s.cfg.stOtherError s := by
  rcases h with hv | ⟨hl, he⟩
  · simp [classifyFrame, hv]
  · simp [classifyFrame, hl, he]

/-- A byte that `RXBUF` lists is what a step reads there. -/
theorem readRxbuf {s : State} {j : Nat} {b : Byte} (h : memRead s.rxbuf j = some b) : readByte .rxbuf j s = b :=
  readByte_written h

/-- A copied payload byte that `RXBUF` lists stands in the other buffer as it stands there. -/
theorem memRead_copyPayload_listed {dst : Space} (hd : dst ≠ .rxbuf) {n : Nat} {s : State}
    (hrx : ∀ j < n, (memRead s.rxbuf j).isSome = true) (j : Nat) :
    memRead (buffer dst (copyPayload dst n s)) j = if j < n then memRead s.rxbuf j else memRead (buffer dst s) j := by
  rw [memRead_copyPayload hd]
  by_cases hj : j < n
  · obtain ⟨b, hb⟩ := Option.isSome_iff_exists.1 (hrx j hj)
    rw [if_pos hj, if_pos hj, readRxbuf hb, hb]
  · rw [if_neg hj, if_neg hj]

/-- Settles O15: arm 1 reads `RXBUF[0]`. -/
theorem standardFramePassesThrough : Obligations.StandardFramePassesThrough := by
  intro i s b hp hv hl hb
  rw [exec_classify hp, classifyFrame_standard hv hl, readRxbuf hb]
  rfl

/-- Arm 2 as a step of the operation. -/
theorem exec_classify_success {i : Instr} {s : State} (hp : s.phase = .classify) (hv : s.frmValid = true)
    (hl : s.frmLength ≠ s.cfg.frameStd) (he : expectedOf s.cfg i = some s.frmLength) :
    exec i s = .next (goto (afterOf i) (setRes .success s.cfg.stSuccess (deliverOf i s))) := by
  rw [exec_classify hp, classifyFrame_success hv hl he]

/-- Settles O16: arm 2 with INFO's success arm. -/
theorem infoDeliversDeviceInfo : Obligations.InfoDeliversDeviceInfo := by
  intro s b0 b1 b2 b3 hp hv hl hne h0 h1 h2 h3
  rw [exec_classify_success (i := .info) hp hv (hl ▸ hne) (congrArg some hl.symm), deliverOf, deliverInfo, readRxbuf h0,
    readRxbuf h1, readRxbuf h2, readRxbuf h3]
  rfl

/-- Settles O17: arm 2 with a copy of `RANDOM_LEN` bytes. -/
theorem randomDelivers32Bytes : Obligations.RandomDelivers32Bytes := by
  intro n s hp hv hl hne hrx
  have hmem := memRead_copyPayload_listed (dst := .rnd) (by decide) hrx
  obtain ⟨m, hm⟩ := copyPayload_rnd s.cfg.randomLen s
  rw [hm] at hmem
  refine ⟨m, ?_, hmem⟩
  rw [exec_classify_success (i := .random n) hp hv (hl ▸ hne) (congrArg some hl.symm), deliverOf, deliverRandom, hm]
  rfl

/-- Settles O18: arm 2 with a copy of 16 bytes. -/
theorem serialDelivers16Bytes : Obligations.SerialDelivers16Bytes := by
  intro s hp hv hl hne hrx
  have hmem := memRead_copyPayload_listed (dst := .ser) (n := serialLen) (by decide) hrx
  obtain ⟨m, hm⟩ := copyPayload_ser serialLen s
  rw [hm] at hmem
  refine ⟨m, ?_, hmem⟩
  rw [exec_classify_success (i := .serial) hp hv (hl ▸ hne) (congrArg some hl.symm), deliverOf, deliverSerial, hm]
  rfl

/-- INITMAP writes the outcome and nothing else. -/
theorem initMap_eq_setRes (s : State) :
    ∃ k c, (k = .success ∧ c = s.cfg.stSuccess ∨ k = .initFail ∧ c = s.cfg.stInitFail) ∧ initMap s = setRes k c s := by
  rcases initMap_cases s with ⟨-, -, h⟩ | ⟨-, h⟩
  · exact ⟨_, _, .inl ⟨rfl, rfl⟩, h⟩
  · exact ⟨_, _, .inr ⟨rfl, rfl⟩, h⟩

/-- OtherError comes from arm 3 only. -/
theorem otherError_of_classifyFrame {expected : Option Byte} {i : Instr} {s : State}
    (h : (classifyFrame expected (deliverOf i) s).resKind = .otherError) :
    s.frmValid = false ∨ (s.frmLength ≠ s.cfg.frameStd ∧ expected ≠ some s.frmLength) := by
  rcases classifyFrame_res expected (deliverOf i) s with ⟨-, -, e⟩ | ⟨-, -, -, e⟩ | ⟨hcl, -⟩
  · simp [e] at h
  · simp [e] at h
  · exact hcl

/-- Which rows write `RES`: the abort, CLASSIFY and INITMAP (10_state.md R32). -/
theorem rowStep_res {i : Instr} {s t : State} (h : RowStep i s t) :
    (t.resKind = s.resKind ∧ t.resCode = s.resCode) ∨
    (s.phase = .txAbort ∧ t.resKind = .busError ∧ t.resCode = s.cfg.stBusError) ∨
    (s.phase = .classify ∧ t = goto (afterOf i) (classifyFrame (expectedOf s.cfg i) (deliverOf i) s)) ∨
    (s.phase = .initmap ∧ t = goto .done (initMap s)) := by
  cases h with
  | txAbort hp => exact .inr (.inl ⟨hp, rfl, rfl⟩)
  | classify hp => exact .inr (.inr (.inl ⟨hp, rfl⟩))
  | initmap hp => exact .inr (.inr (.inr ⟨hp, rfl⟩))
  | build => exact .inl (by rw [buildOf_eq]; exact ⟨rfl, rfl⟩)
  | _ => exact .inl (by simp)

/-- The outcome after a step of an operation: unchanged, a rejection, or that of the abort, CLASSIFY or INITMAP. -/
theorem exec_resKind {i : Instr} {s t : State} (h : exec i s = .next t) :
    t.resKind = s.resKind ∨ t.resKind = .rejected ∨ (s.phase = .txAbort ∧ t.resKind = .busError) ∨
    (s.phase = .classify ∧ t = goto (afterOf i) (classifyFrame (expectedOf s.cfg i) (deliverOf i) s)) ∨
    (t.resKind = .success ∨ t.resKind = .initFail) := by
  by_cases hp : s.phase = .idle
  · rcases exec_idle_cases hp h with rfl | ⟨-, -, rfl⟩ | ⟨-, rfl⟩
    · exact .inl rfl
    · exact .inl rfl
    · exact .inr (.inl rfl)
  · rcases rowStep_res (exec_rowStep hp h) with ⟨hk, -⟩ | ⟨hph, hk, -⟩ | hcl | ⟨-, rfl⟩
    · exact .inl hk
    · exact .inr (.inr (.inl ⟨hph, hk⟩))
    · exact .inr (.inr (.inr (.inl hcl)))
    · obtain ⟨k, c, hk, he⟩ := initMap_eq_setRes s
      refine .inr (.inr (.inr (.inr ?_)))
      rw [he]
      exact hk.imp And.left And.left

/-- Settles O19: arm 3 gives OtherError, and of the rows that write `RES` no other one does. -/
theorem otherErrorFromTheThirdArmOnly : Obligations.OtherErrorFromTheThirdArmOnly := by
  refine ⟨fun i s hp hcl => ?_, fun i s t h hs ht => ?_⟩
  · rw [exec_classify hp, classifyFrame_otherError hcl]
    rfl
  · rcases exec_resKind h with hk | hk | ⟨-, hk⟩ | ⟨hp, rfl⟩ | hk | hk
    · exact absurd (hk.symm.trans ht) hs
    · cases hk.symm.trans ht
    · cases hk.symm.trans ht
    · exact ⟨hp, otherError_of_classifyFrame ht⟩
    · cases hk.symm.trans ht
    · cases hk.symm.trans ht

/-- Settles O20: the two cases of `initMap`. -/
theorem initMapsTheInnerOutcome : Obligations.InitMapsTheInnerOutcome := by
  intro s hp
  rw [exec_initmap hp]
  refine ⟨fun hpass => ?_, fun hfail => ?_⟩
  · rw [initMap, if_pos hpass]
    rfl
  · rw [initMap, if_neg hfail]
    rfl

/-! ### INIT and SELFTEST DRBG -/

/-- Outside `IDLE`, `TX_ABORT` and `CLASSIFY` the phase table does not ask for the word or the phase after. -/
theorem operationStep_congr {w w' : Word} {build classify : State → State} {settle : Nat} {p p' : Phase} {s : State}
    (hi : s.phase ≠ .idle) (ha : s.phase ≠ .txAbort) (hc : s.phase ≠ .classify) :
    operationStep w build settle classify p s = operationStep w' build settle classify p' s := by
  unfold operationStep
  split
  case h_1 hp => exact absurd hp hi
  case h_15 hp => exact absurd hp ha
  case h_28 hp => exact absurd hp hc
  all_goals rfl

/-- Settles O21: INIT and SELFTEST DRBG share BUILD, settle time and classifier. -/
theorem initStepsAsSelftestDrbg : Obligations.InitStepsAsSelftestDrbg := by
  intro s hi
  refine ⟨fun ha hc => ?_, fun t ht hp => ?_⟩
  · rw [exec_eq, exec_eq]
    exact operationStep_congr hi ha hc
  · rcases hp with hp | hp
    · rw [exec_txAbort hp] at ht ⊢
      rcases withCall_next ht with ⟨hc, rfl⟩ | ⟨hc, hnext⟩
      · rw [rowTxAbort, withCall_stuck _ hc, hp]
        rfl
      · cases hnext
        rw [rowTxAbort, withCall_returns _ hc]
        rfl
    · rw [exec_classify hp] at ht ⊢
      cases ht
      rfl

/-! ### The payload rows outside the receive buffer -/

/-- Settles O55: both payload rows test `IDX` against the capacity. -/
theorem payloadBeyondTheBufferFaults : Obligations.PayloadBeyondTheBufferFaults := by
  intro i s hi
  have hout : idxInRxbuf s = false := decide_eq_false (Nat.not_lt.2 hi)
  refine ⟨fun hp hc => ?_, fun hp => ?_⟩
  · have hout' : idxInRxbuf (called s) = false := hout
    rw [exec_rxPayRd hp, rowRxPayRd, withCall_returns _ hc, hout']
    rfl
  · rw [exec_rxPayUpd hp, rowRxPayUpd, hout]
    rfl

end Sys2Proof.Machine
end

section
/-! SUPPORT. What one step leaves unchanged and what it adds to the trace: the frames of TRANSMIT, RECEIVE and CLASSIFY, the
one event of each row (10_state.md R32), and a failed write. -/

namespace Sys2Proof.Machine

/-! ### What a call's count and IDX do not touch -/

section
variable (s : State)

@[simp] theorem nextAck_called : nextAck (called s) = nextAck s := rfl
@[simp] theorem nextAck_setIdx (v : Byte) : nextAck (setIdx v s) = nextAck s := rfl
@[simp] theorem nextByte_called : nextByte (called s) = nextByte s := rfl
@[simp] theorem crcValue_called : crcValue (called s) = crcValue s := rfl

@[simp] theorem buildOf_callsLeft (i : Instr) : (buildOf i s).callsLeft = s.callsLeft := by rw [buildOf_eq]; rfl
@[simp] theorem buildOf_cfg (i : Instr) : (buildOf i s).cfg = s.cfg := by rw [buildOf_eq]; rfl
@[simp] theorem buildOf_trace (i : Instr) : (buildOf i s).trace = s.trace := by rw [buildOf_eq]; rfl

@[simp] theorem initMap_callsLeft : (initMap s).callsLeft = s.callsLeft := by
  obtain ⟨k, c, -, h⟩ := initMap_eq_setRes s; rw [h]; rfl
@[simp] theorem initMap_cfg : (initMap s).cfg = s.cfg := by
  obtain ⟨k, c, -, h⟩ := initMap_eq_setRes s; rw [h]; rfl
@[simp] theorem initMap_trace : (initMap s).trace = s.trace := by
  obtain ⟨k, c, -, h⟩ := initMap_eq_setRes s; rw [h]; rfl

end

/-! ### The configuration -/

theorem rowStep_cfg {i : Instr} {s t : State} (h : RowStep i s t) : t.cfg = s.cfg := by
  cases h <;> simp

/-- Settles O44: no row writes it, and neither does the taking of a word. -/
theorem noStepWritesTheConfiguration : Obligations.NoStepWritesTheConfiguration := by
  intro s t h
  rcases step_next h with ⟨-, rfl⟩ | ⟨-, -, i, rest, -, rfl⟩ | ⟨-, -, rest, rfl⟩ | ⟨-, i, -, -, hrow⟩
  · rfl
  · rfl
  · rfl
  · exact rowStep_cfg hrow

/-! ### Events -/

/-- A row that calls a primitive which returns adds its event and counts one call (10_state.md R32, 20_memory.md R44). -/
theorem rowStep_event {i : Instr} {s t : State} (h : RowStep i s t) (hcall : callsPrimitive s.phase = true)
    (hc : s.callsLeft ≠ some 0) :
    (∃ e, eventOf i s = some e ∧ t.trace = s.trace ++ [e]) ∧ t.callsLeft = s.callsLeft.map (· - 1) := by
  cases h with
  | stuck hs => exact absurd hs hc
  | build hp | classify hp | initmap hp | done hp => simp [hp, callsPrimitive] at hcall
  | txHdrUpd b hp _ hb | txHdrWrNext b hp _ hb | txHdrWrFill b hp _ hb | txHdrWrLast b hp _ hb | txHdrWrFail b hp _ hb =>
    simp [eventOf, hp, hb]
  | _ => simp [eventOf, *]

/-- A row that calls no primitive adds no event. -/
theorem rowStep_internal {i : Instr} {s t : State} (h : RowStep i s t) (hcall : callsPrimitive s.phase = false) :
    t.trace = s.trace ∧ t.callsLeft = s.callsLeft := by
  cases h with
  | build | classify | initmap | done => simp
  | _ => simp_all [callsPrimitive]

/-- A row whose primitive never returns changes nothing. -/
theorem rowStep_stuck {i : Instr} {s t : State} (h : RowStep i s t) (hcall : callsPrimitive s.phase = true)
    (hc : s.callsLeft = some 0) : t = s := by
  cases h with
  | stuck => rfl
  | build hp | classify hp | initmap hp | done hp => simp [hp, callsPrimitive] at hcall
  | _ => contradiction

/-- Settles O42: the rows of a busy phase, and the word taken in `IDLE`, which makes no event. -/
theorem stepAddsTheEventOfItsPhase : Obligations.StepAddsTheEventOfItsPhase := by
  intro s t h
  have hidle : s.phase = .idle → callsPrimitive s.phase = true → False := fun hp => by simp [hp, callsPrimitive]
  rcases step_next h with ⟨hp, rfl⟩ | ⟨hp, -, i, rest, -, rfl⟩ | ⟨hp, -, rest, rfl⟩ | ⟨-, i, hd, -, hrow⟩
  · exact ⟨fun _ => rfl, fun _ _ => rfl, fun hcall => (hidle hp hcall).elim⟩
  · exact ⟨fun _ => rfl, fun hcall => (hidle hp hcall).elim, fun hcall => (hidle hp hcall).elim⟩
  · exact ⟨fun _ => rfl, fun hcall => (hidle hp hcall).elim, fun hcall => (hidle hp hcall).elim⟩
  · refine ⟨fun hcall => (rowStep_internal hrow hcall).1, rowStep_stuck hrow, fun hcall hc => ?_⟩
    obtain ⟨⟨e, he, htrace⟩, hleft⟩ := rowStep_event hrow hcall hc
    exact ⟨⟨i, e, hd, he, htrace⟩, hleft⟩

/-! ### Transactions -/

@[simp] theorem busPointOf_afterOf (i : Instr) : busPointOf (afterOf i) = .closed := by cases i <;> rfl

/-- The event of a row takes the transport from where the row's phase stands to where the next one does (20_memory.md
R56). -/
theorem rowStep_busPoint {i : Instr} {s t : State} (h : RowStep i s t) (hbus : BusDiscipline s) : BusDiscipline t := by
  unfold BusDiscipline at hbus ⊢
  cases h with
  | stuck => exact hbus
  | build hp | initmap hp | done hp => simpa [hp, busPointOf] using hbus
  | classify hp =>
    rw [hp] at hbus
    simpa using hbus.trans (show some (busPointOf .classify) = some .closed from rfl)
  | txAbort hp =>
    rw [goto_phase, busPointOf_afterOf, goto_trace, raiseBusError_trace, called_trace, busPoint_snoc _ hbus, hp]
    rfl
  | _ =>
    rename _ = _ => hp
    simp [busPoint_snoc _ hbus, busPointOf, busPointStep, *]

/-- Settles O41. -/
theorem everyStepKeepsTransactionsWellFormed : Obligations.EveryStepKeepsTransactionsWellFormed := by
  intro s t hbus h
  rcases step_next h with ⟨hp, rfl⟩ | ⟨hp, -, i, rest, -, rfl⟩ | ⟨hp, -, rest, rfl⟩ | ⟨-, i, hd, -, hrow⟩
  · exact hbus
  · simpa [BusDiscipline, hp, busPointOf] using hbus
  · simpa [BusDiscipline] using hbus
  · exact rowStep_busPoint hrow hbus

/-! ### Frames -/

/-- Settles O45: row by row; `TX_CRCRES` is the one that writes `PKT.CHECKSUM`. -/
theorem transmitLeavesTheRest : Obligations.TransmitLeavesTheRest := by
  intro i s t hin h
  have hp : s.phase ≠ .idle := by rintro hp; simp [hp, inTransmit] at hin
  cases exec_rowStep hp h with
  | stuck | txCrcInit | txStart | txAddr | txExec | txExecFail | txHdrUpd | txHdrWrNext | txHdrWrFill | txHdrWrLast |
      txHdrWrFail | txFillUpd | txFillWrNext | txFillWrLast | txFillWrFail | txCkLo | txCkLoFail | txCkHi | txCkHiFail |
      txStop => simp [State.ext_iff]
  | txCrcRes hp => simp [State.ext_iff, hp]
  | _ => simp_all [inTransmit]

/-- Settles O46: row by row; `RX_PAY_RD` is the one that writes `RXBUF`. -/
theorem receiveLeavesTheRest : Obligations.ReceiveLeavesTheRest := by
  intro i s t hin h
  have hp : s.phase ≠ .idle := by rintro hp; simp [hp, inReceive] at hin
  cases exec_rowStep hp h with
  | rxPayRd hp => exact ⟨fun hne => absurd hp hne, fun j hj => memRead_memWrite_ne _ _ _ _ hj, by simp [State.ext_iff]⟩
  | stuck | rxCrcInit | rxStart | rxAddr | rxLenRd | rxLenUpdPay | rxLenUpdNone | rxPayUpdNext | rxPayUpdLast | rxCkLo |
      rxCkHi | rxStop | rxCrcRes => simp [State.ext_iff]
  | _ => simp_all [inReceive]

/-- The data registers of the operations: `INFO.*`, `RND`, `SER`. -/
structure SameData (s t : State) : Prop where
  infoRfu : t.infoRfu = s.infoRfu
  infoDevid : t.infoDevid = s.infoDevid
  infoSilid : t.infoSilid = s.infoSilid
  infoRev : t.infoRev = s.infoRev
  rnd : t.rnd = s.rnd
  ser : t.ser = s.ser

/-- No row but CLASSIFY writes a data register. -/
theorem rowStep_data {i : Instr} {s t : State} (h : RowStep i s t) (hp : s.phase ≠ .classify) : SameData s t := by
  cases h with
  | classify hc => exact absurd hc hp
  | build => rw [buildOf_eq]; constructor <;> rfl
  | initmap =>
    obtain ⟨k, c, -, he⟩ := initMap_eq_setRes s
    rw [he]; constructor <;> rfl
  | _ => constructor <;> simp

/-- A step of an operation outside CLASSIFY writes no data register. -/
theorem exec_data {i : Instr} {s t : State} (h : exec i s = .next t) (hp : s.phase ≠ .classify) : SameData s t := by
  by_cases hi : s.phase = .idle
  · rcases exec_idle_cases hi h with rfl | ⟨-, -, rfl⟩ | ⟨-, rfl⟩ <;> constructor <;> rfl
  · exact rowStep_data (exec_rowStep hi h) hp

/-- CLASSIFY writes a data register only on SUCCESS. -/
theorem classifyFrame_data (i : Instr) (s : State) :
    (classifyFrame (expectedOf s.cfg i) (deliverOf i) s).resKind = .success ∨
      SameData s (classifyFrame (expectedOf s.cfg i) (deliverOf i) s) := by
  rcases classifyFrame_res (expectedOf s.cfg i) (deliverOf i) s with ⟨-, -, e⟩ | ⟨-, -, -, e⟩ | ⟨-, e⟩ <;> rw [e]
  · right; constructor <;> rfl
  · exact .inl rfl
  · right; constructor <;> rfl

/-- Settles O47: outside CLASSIFY nothing is written, there only on SUCCESS, and then the operation's own. -/
theorem dataRegistersChangeOnOwnSuccessOnly : Obligations.DataRegistersChangeOnOwnSuccessOnly := by
  intro i s t h
  by_cases hp : s.phase = .classify
  · rw [exec_classify hp] at h
    cases h
    rcases classifyFrame_data i s with hk | hsame
    · obtain ⟨hinfo, hrnd, hser⟩ := classifyOf_own i s
      refine ⟨?_, ?_, ?_⟩
      · by_cases hi : i = .info
        · exact .inr ⟨hi, hp, hk⟩
        · obtain ⟨h1, h2, h3, h4, -⟩ := hinfo hi
          exact .inl ⟨h1, h2, h3, h4⟩
      · by_cases hi : ∃ n, i = .random n
        · exact .inr ⟨hi, hp, hk⟩
        · exact .inl (hrnd fun n hn => hi ⟨n, hn⟩)
      · by_cases hi : i = .serial
        · exact .inr ⟨hi, hp, hk⟩
        · exact .inl (hser hi)
    · exact ⟨.inl ⟨hsame.infoRfu, hsame.infoDevid, hsame.infoSilid, hsame.infoRev⟩, .inl hsame.rnd, .inl hsame.ser⟩
  · have hsame := exec_data h hp
    exact ⟨.inl ⟨hsame.infoRfu, hsame.infoDevid, hsame.infoSilid, hsame.infoRev⟩, .inl hsame.rnd, .inl hsame.ser⟩

/-- The success arm writes at most the first `RANDOM_LEN` bytes of `RND` and the first 16 of `SER`. -/
theorem deliverOf_outside (i : Instr) (s : State) :
    (∀ j, s.cfg.randomLen ≤ j → memRead (deliverOf i s).rnd j = memRead s.rnd j) ∧
      (∀ j, 16 ≤ j → memRead (deliverOf i s).ser j = memRead s.ser j) := by
  obtain ⟨-, hrnd, hser⟩ := deliverOf_own i s
  cases i with
  | random n =>
    refine ⟨fun j hj => ?_, fun j _ => by rw [hser (by simp)]⟩
    exact (memRead_copyPayload (dst := .rnd) (by decide) _ j s).trans (if_neg (Nat.not_lt.2 hj))
  | serial =>
    refine ⟨fun j _ => by rw [hrnd (by simp)], fun j hj => ?_⟩
    exact (memRead_copyPayload (dst := .ser) (by decide) serialLen j s).trans (if_neg (Nat.not_lt.2 hj))
  | _ => exact ⟨fun _ _ => rfl, fun _ _ => rfl⟩

/-- CLASSIFY writes `RND` and `SER` in their index ranges only. -/
theorem classifyOf_outside (i : Instr) (s : State) :
    (∀ j, s.cfg.randomLen ≤ j → memRead (classifyFrame (expectedOf s.cfg i) (deliverOf i) s).rnd j = memRead s.rnd j) ∧
      (∀ j, 16 ≤ j → memRead (classifyFrame (expectedOf s.cfg i) (deliverOf i) s).ser j = memRead s.ser j) := by
  rcases classifyFrame_res (expectedOf s.cfg i) (deliverOf i) s with ⟨-, -, e⟩ | ⟨-, -, -, e⟩ | ⟨-, e⟩ <;> rw [e]
  · exact ⟨fun _ _ => rfl, fun _ _ => rfl⟩
  · exact deliverOf_outside i s
  · exact ⟨fun _ _ => rfl, fun _ _ => rfl⟩

/-- Settles O48. -/
theorem classifyLeavesTheRest : Obligations.ClassifyLeavesTheRest := by
  intro i s t hp h
  rw [exec_classify hp] at h
  cases h
  obtain ⟨hinfo, hrnd, hser⟩ := classifyOf_own i s
  obtain ⟨hrnd', hser'⟩ := classifyOf_outside i s
  refine ⟨rfl, hinfo, hrnd, hser, hrnd', hser', ?_⟩
  have hwritten := congrArg State.written (classifyOf_frame i s)
  simp only [State.ext_iff]
  simpa using hwritten

/-! ### Failed writes -/

/-- In a write phase, with a header byte where one is to be sent, a failed write leads to the abort with that write as its
one event; the execute byte's row also sets `IDX`. -/
theorem exec_write_fails {i : Instr} {s : State} (hw : writesBus s.phase = true)
    (hi : s.phase = .txHdrWr → s.idx.toNat ≤ 4) (hc : s.callsLeft = none) (ha : nextAck s = .busError) :
    ∃ (v b : Byte), exec i s = .next (goto .txAbort (busWrite b (setIdx v s))) := by
  cases hp : s.phase with
  | txExec =>
    have ha' : nextAck (setIdx 0#8 s) = .busError := ha
    refine ⟨0#8, s.cfg.waExecute, ?_⟩
    rw [exec_txExec hp, rowTxExec, withCall_none _ hc]
    simp only [writeOrAbort, ha']
  | txHdrWr =>
    obtain ⟨b, hb⟩ := Option.isSome_iff_exists.1 ((headerByte_isSome s).trans (decide_eq_true (hi hp)))
    refine ⟨s.idx, b, ?_⟩
    rw [exec_txHdrWr hp]
    simp only [rowTxHdrWr, hb, withCall_none _ hc, writeOrAbort, ha]
    rfl
  | txFillWr =>
    refine ⟨s.idx, s.cfg.filler, ?_⟩
    rw [exec_txFillWr hp, rowTxFillWr, withCall_none _ hc]
    simp only [writeOrAbort, ha]
    rfl
  | txCkLo =>
    refine ⟨s.idx, loByte s.pktChecksum, ?_⟩
    rw [exec_txCkLo hp, rowTxCkLo, withCall_none _ hc]
    simp only [writeOrAbort, ha]
    rfl
  | txCkHi =>
    refine ⟨s.idx, hiByte s.pktChecksum, ?_⟩
    rw [exec_txCkHi hp, rowTxCkHi, withCall_none _ hc]
    simp only [writeOrAbort, ha]
    rfl
  | _ => simp [hp, writesBus] at hw

/-- Settles O23. -/
theorem failedWriteAborts : Obligations.FailedWriteAborts := by
  intro i s rest hw hi hc ha
  obtain ⟨v, b, h⟩ := exec_write_fails (i := i) hw hi hc (nextAck_cons ha)
  refine ⟨_, b, h, rfl, ?_, ?_⟩
  · simp [State.ext_iff, ha, nextAck_cons ha]
  · rw [exec_txAbort rfl, rowTxAbort, withCall_none _ (by simpa using hc)]
    rfl

/-- Only a failed write of a write phase enters the abort phase. -/
theorem rowStep_txAbort {i : Instr} {s t : State} (h : RowStep i s t) (hs : s.phase ≠ .txAbort) (ht : t.phase = .txAbort) :
    writesBus s.phase = true ∧ nextAck s = .busError := by
  have hafter : afterOf i ≠ .txAbort := by cases i <;> simp [afterOf]
  cases h with
  | txExecFail hp _ ha | txFillWrFail hp _ ha | txCkLoFail hp _ ha | txCkHiFail hp _ ha | txHdrWrFail _ hp _ _ ha =>
    exact ⟨by rw [hp]; rfl, ha⟩
  | stuck => exact absurd ht hs
  | classify => exact absurd ht hafter
  | txAbort hp => exact absurd hp hs
  | _ => cases ht

/-- Settles O24. -/
theorem busErrorFromFailedWritesOnly : Obligations.BusErrorFromFailedWritesOnly := by
  intro i s t h
  refine ⟨fun hs ht => ?_, fun hs ht => ?_⟩
  · by_cases hp : s.phase = .idle
    · rcases exec_idle_cases hp h with rfl | ⟨-, -, rfl⟩ | ⟨-, rfl⟩
      · exact absurd ht hs
      · cases ht
      · exact absurd ht hs
    · exact rowStep_txAbort (exec_rowStep hp h) hs ht
  · rcases exec_resKind h with hk | hk | ⟨hp, -⟩ | ⟨-, rfl⟩ | hk | hk
    · exact absurd (hk.symm.trans ht) hs
    · cases hk.symm.trans ht
    · exact hp
    · rcases classifyFrame_res (expectedOf s.cfg i) (deliverOf i) s with ⟨-, -, e⟩ | ⟨-, -, -, e⟩ | ⟨-, e⟩ <;>
        · rw [goto_resKind, e] at ht
          cases ht
    · cases hk.symm.trans ht
    · cases hk.symm.trans ht

end Sys2Proof.Machine
end

section
/-! SUPPORT. The invariant of the machine (10_state.md): each of its parts is kept by every row of the phase table, by the
taking and by the rejection of a word; and from its states every step answers. -/

namespace Sys2Proof.Machine

/-! ### What the rows do to the control registers -/

section
variable {i : Instr} {s t : State}

theorem rowStep_cmd (h : RowStep i s t) : t.cmd = s.cmd := by
  cases h with
  | build => rw [buildOf_eq]; rfl
  | initmap => obtain ⟨k, c, -, he⟩ := initMap_eq_setRes s; rw [he]; rfl
  | _ => simp

theorem rowStep_busy (h : RowStep i s t) : t.busy = if s.phase = .done then false else s.busy := by
  cases h with
  | build hp => rw [buildOf_eq, hp]; rfl
  | initmap hp => obtain ⟨k, c, -, he⟩ := initMap_eq_setRes s; rw [he, hp]; rfl
  | stuck _ hp =>
    have : s.phase ≠ .done := by rintro hd; simp [hd, callsPrimitive] at hp
    rw [if_neg this]
  | _ => simp [*]

/-- A row enters no phase of the host's: `DONE` alone leads to `IDLE`, and `IDLE` alone to `BUILD`. -/
theorem rowStep_phase (h : RowStep i s t) (hs : s.phase ≠ .idle) :
    (t.phase = .idle ↔ s.phase = .done) ∧ t.phase ≠ .build := by
  have hafter : afterOf i ≠ .idle ∧ afterOf i ≠ .build := by cases i <;> simp [afterOf]
  cases h with
  | stuck _ hp =>
    refine ⟨⟨fun e => absurd e hs, fun e => ?_⟩, fun e => ?_⟩ <;> simp [e, callsPrimitive] at hp
  | _ => simp [*]

/-- The packet registers and `TXFILL` are written by BUILD only (10_state.md R13, R14). -/
theorem rowStep_packet (h : RowStep i s t) (hs : s.phase ≠ .build) :
    t.pktCount = s.pktCount ∧ t.pktOpcode = s.pktOpcode ∧ t.pktParam1 = s.pktParam1 ∧ t.pktParam2 = s.pktParam2 ∧
      t.txfill = s.txfill := by
  cases h with
  | build hp => exact absurd hp hs
  | initmap => obtain ⟨k, c, -, he⟩ := initMap_eq_setRes s; rw [he]; exact ⟨rfl, rfl, rfl, rfl, rfl⟩
  | _ => simp

/-! ### The parts of the invariant, row by row -/

/-- What the success arm of an operation delivers fits its buffer. -/
theorem deliverOf_buffersOk (i : Instr) (hb : BuffersOk s) : BuffersOk (deliverOf i s) := by
  cases i with
  | random n => exact buffersOk_copyPayload (dst := .rnd) hb (Nat.le_refl _)
  | serial => exact buffersOk_copyPayload (dst := .ser) hb (Nat.le_refl _)
  | _ => exact hb

theorem rowStep_buffersOk (h : RowStep i s t) (hb : BuffersOk s) : BuffersOk t := by
  cases h with
  | rxPayRd hp hc hi =>
    have hw : BuffersOk (writeByte .rxbuf s.idx.toNat (nextByte s) s) := buffersOk_writeByte hb hi
    exact buffersOk_congr hw (by simp) (by simp) (by simp) (by simp)
  | classify =>
    rcases classifyFrame_res (expectedOf s.cfg i) (deliverOf i) s with ⟨-, -, e⟩ | ⟨-, -, -, e⟩ | ⟨-, e⟩ <;> rw [e]
    · exact hb
    · exact deliverOf_buffersOk i hb
    · exact hb
  | build => rw [buildOf_eq]; exact hb
  | initmap => obtain ⟨k, c, -, he⟩ := initMap_eq_setRes s; rw [he]; exact hb
  | _ => exact buffersOk_congr hb (by simp) (by simp) (by simp) (by simp)

theorem indexOk_goto_afterOf (i : Instr) (s : State) : IndexOk (goto (afterOf i) s) ↔ s.idx.toNat ≤ 252 := by
  cases i <;> rfl

/-- Inside the loops `IDX` is below a count of at most 252, and outside them it may be 252. -/
theorem rowStep_indexOk (h : RowStep i s t) (hi : IndexOk s) (hf : s.phase ≠ .build → s.txfill.toNat ≤ 248) :
    IndexOk t := by
  have hpay := payloadLen_le s
  cases h with
  | stuck => exact hi
  | build hp => rw [buildOf_eq]; simpa [IndexOk, hp] using hi
  | txAbort hp | classify hp =>
    rw [indexOk_goto_afterOf]
    simpa [IndexOk, hp] using hi
  | initmap hp =>
    obtain ⟨k, c, -, he⟩ := initMap_eq_setRes s
    rw [he]
    simpa [IndexOk, hp] using hi
  | rxLenUpdPay hp hc hm => simpa [IndexOk, payloadLen] using hm
  | rxPayUpdNext hp hc hroom hm =>
    simp only [IndexOk, hp] at hi
    have hsucc := idx_succ (x := s.idx) (by omega)
    rw [← hsucc] at hm
    simpa [IndexOk, payloadLen] using hm
  | _ =>
    rename s.phase = _ => hp
    simp [IndexOk, payloadLen, *] at hi hpay hf ⊢ <;> omega

theorem txnOk_goto_afterOf (i : Instr) (s : State) : TxnOk (goto (afterOf i) s) ↔ s.txn = .closed := by
  cases i <;> rfl

theorem rowStep_txnOk (h : RowStep i s t) (ht : TxnOk s) : TxnOk t := by
  cases h with
  | stuck => exact ht
  | build hp => rw [buildOf_eq]; simpa [TxnOk, hp, busPointOf] using ht
  | initmap hp =>
    obtain ⟨k, c, -, he⟩ := initMap_eq_setRes s
    rw [he]
    simpa [TxnOk, hp, busPointOf] using ht
  | classify hp =>
    rw [txnOk_goto_afterOf]
    simpa [TxnOk, hp, busPointOf] using ht
  | txAbort => exact (txnOk_goto_afterOf i _).2 rfl
  | _ =>
    rename s.phase = _ => hp
    simp_all [TxnOk, busPointOf]

/-- The outcome of a received frame is one the operation can have, and its code is the kind's (60_exceptions.md R150). -/
theorem classifyFrame_outcome (i : Instr) (s : State) :
    codeOfKind s.cfg (classifyFrame (expectedOf s.cfg i) (deliverOf i) s).resKind
      (classifyFrame (expectedOf s.cfg i) (deliverOf i) s).resCode ∧
    (i = .init → (classifyFrame (expectedOf s.cfg i) (deliverOf i) s).resKind = .status ∨
      (classifyFrame (expectedOf s.cfg i) (deliverOf i) s).resKind = .otherError) ∧
    (i ≠ .init → outcomeAllowed i (classifyFrame (expectedOf s.cfg i) (deliverOf i) s).resKind) := by
  rcases classifyFrame_res (expectedOf s.cfg i) (deliverOf i) s with ⟨-, -, e⟩ | ⟨-, -, he, e⟩ | ⟨-, e⟩ <;> rw [e]
  · refine ⟨trivial, fun _ => .inl rfl, fun _ => ?_⟩
    cases i <;> simp_all [outcomeAllowed]
  · refine ⟨rfl, fun hi => ?_, fun _ => ?_⟩
    · simp [hi, expectedOf] at he
    · cases i <;> simp_all [outcomeAllowed, expectedOf]
  · refine ⟨rfl, fun _ => .inr rfl, fun _ => ?_⟩
    cases i <;> simp_all [outcomeAllowed]

/-- The phase after CLASSIFY or the abort, entered with an inner outcome of the operation. -/
theorem outcomeOk_goto_afterOf (hd : decode s.cmd = .ok i) (hcode : codeOfKind s.cfg s.resKind s.resCode)
    (hinit : i = .init → s.resKind = .status ∨ s.resKind = .busError ∨ s.resKind = .otherError)
    (hother : i ≠ .init → outcomeAllowed i s.resKind) : OutcomeOk (goto (afterOf i) s) := by
  refine ⟨hcode, fun hp => ?_, fun hp j hj => ?_⟩ <;>
    rcases afterOf_cases i with ⟨hi, ha⟩ | ⟨hi, ha⟩ <;> simp only [goto_phase, ha, reduceCtorEq] at hp
  · exact ⟨hi ▸ hd, hinit hi⟩
  · cases hd.symm.trans hj
    exact hother hi

theorem rowStep_outcomeOk (h : RowStep i s t) (hd : decode s.cmd = .ok i) (ho : OutcomeOk s) : OutcomeOk t := by
  obtain ⟨hcode, hmap, hdone⟩ := ho
  cases h with
  | stuck => exact ⟨hcode, hmap, hdone⟩
  | build => rw [buildOf_eq]; exact ⟨hcode, nofun, nofun⟩
  | txAbort =>
    refine outcomeOk_goto_afterOf (by simpa using hd) rfl (fun _ => .inr (.inl rfl)) fun _ => ?_
    cases i <;> simp_all [outcomeAllowed]
  | classify =>
    obtain ⟨hc, hinit, hother⟩ := classifyFrame_outcome i s
    exact outcomeOk_goto_afterOf (by simpa using hd) (by simpa using hc) (fun e => (hinit e).imp_right .inr) hother
  | initmap hp =>
    obtain ⟨k, c, hk, he⟩ := initMap_eq_setRes s
    rw [he]
    obtain ⟨hinit, -⟩ := hmap hp
    refine ⟨?_, nofun, fun _ j hj => ?_⟩
    · rcases hk with ⟨rfl, rfl⟩ | ⟨rfl, rfl⟩ <;> rfl
    · cases hinit.symm.trans hj
      exact hk.imp And.left And.left
  | _ => exact ⟨by simpa using hcode, nofun, nofun⟩

end

/-! ### The invariant -/

/-- With an operation running the packet is built, so that its filler count is the operation's, at most 248. -/
theorem txfill_le {i : Instr} {s : State} (hpk : PacketOk s) (hd : decode s.cmd = .ok i) (hi : s.phase ≠ .idle)
    (hb : s.phase ≠ .build) : s.txfill.toNat ≤ 248 := by
  rcases hpk with hp | hp | hpk
  · exact absurd hp hi
  · exact absurd hp hb
  · obtain ⟨-, -, -, -, -, hle⟩ := hpk i hd
    exact hle

/-- BUILD makes the packet that of the operation; no other row writes it. -/
theorem rowStep_packetOk {i : Instr} {s t : State} (h : RowStep i s t) (hd : decode s.cmd = .ok i) (hp : PacketOk s)
    (hi : s.phase ≠ .idle) : PacketOk t := by
  refine .inr (.inr fun j hj => ?_)
  rw [rowStep_cmd h] at hj
  cases hd.symm.trans hj
  rw [rowStep_cfg h]
  by_cases hb : s.phase = .build
  · cases h with
    | build =>
      rw [buildOf_eq]
      exact ⟨rfl, rfl, rfl, rfl, rfl, fillerOf_le (decodedWordIsItsEncoding _ _ hd).1⟩
    | _ => simp_all [callsPrimitive]
  · obtain ⟨h1, h2, h3, h4, h5⟩ := rowStep_packet h hb
    rw [h1, h2, h3, h4, h5]
    exact (hp.resolve_left hi).resolve_left hb _ hd

/-- A row of the running operation keeps the invariant. -/
theorem rowStep_inv {i : Instr} {s t : State} (h : RowStep i s t) (hd : decode s.cmd = .ok i) (hs : Inv s)
    (hi : s.phase ≠ .idle) : Inv t where
  buffers := rowStep_buffersOk h hs.buffers
  busy := by
    rw [rowStep_busy h, Ne, (rowStep_phase h hi).1]
    simp [hs.busy.2 hi]
  command := .inl ⟨i, by rw [rowStep_cmd h, hd]⟩
  packet := rowStep_packetOk h hd hs.packet hi
  index := rowStep_indexOk h hs.index (txfill_le hs.packet hd hi)
  txn := rowStep_txnOk h hs.txn
  outcome := rowStep_outcomeOk h hd hs.outcome

/-- Acceptance keeps it: BUILD begins, with a legal word in `CMD`. -/
theorem accept_inv {s : State} {w : Word} {i : Instr} (hd : decode w = .ok i) (hs : Inv s) (hi : s.phase = .idle) :
    Inv (accept w s) where
  buffers := hs.buffers
  busy := by simp
  command := .inl ⟨i, hd⟩
  packet := .inr (.inl rfl)
  index := by simpa [IndexOk, hi] using hs.index
  txn := by simpa [TxnOk, hi, busPointOf] using hs.txn
  outcome := ⟨hs.outcome.1, nofun, nofun⟩

/-- Rejection keeps it: the code of a rejection is unspecified. -/
theorem reject_inv {s : State} (hs : Inv s) (hi : s.phase = .idle) : Inv (reject s) where
  buffers := hs.buffers
  busy := hs.busy
  command := hs.command
  packet := hs.packet
  index := hs.index
  txn := hs.txn
  outcome := ⟨trivial, by simp [hi], by simp [hi]⟩

theorem setProgram_inv {s : State} (ws : List Word) (hs : Inv s) : Inv (setProgram ws s) := { hs with }

/-- Settles O38: a word taken in `IDLE` is accepted or rejected, and in a busy phase a row is executed. -/
theorem everyStepKeepsTheInvariant : Obligations.EveryStepKeepsTheInvariant := by
  intro s t hs h
  rcases step_next h with ⟨-, rfl⟩ | ⟨hi, -, i, rest, ⟨j, hj⟩, rfl⟩ | ⟨hi, -, rest, rfl⟩ | ⟨hi, i, hd, -, hrow⟩
  · exact hs
  · exact accept_inv hj (setProgram_inv rest hs) hi
  · exact reject_inv (setProgram_inv rest hs) hi
  · exact rowStep_inv hrow hd hs hi

/-- The reset values of the control registers meet the invariant, whatever the outside world holds (10_state.md R31). -/
theorem applyReset_inv {s : State} (ht : s.txn = .closed) : Inv (applyReset s) where
  buffers := fun sp => by cases sp <;> simp [buffer, applyReset, State.reset, Memory.wf]
  busy := by simp [applyReset, State.reset]
  command := .inr ⟨rfl, rfl⟩
  packet := .inl rfl
  index := by simp [IndexOk, applyReset, State.reset]
  txn := ht
  outcome := ⟨trivial, nofun, nofun⟩

/-- In `IDLE` the checksum invariant claims nothing. -/
theorem checksumInv_of_idle {s : State} (h : s.phase = .idle) : ChecksumInv s where
  engine := by simp [fedOf, h]
  command := by simp [checksumSent, inReceive, h]
  frame := by simp [h]
  payload := by simp [h]

theorem applyReset_reset : applyReset State.reset = State.reset := rfl

/-- Settles O37. -/
theorem resetMeetsTheInvariants : Obligations.ResetMeetsTheInvariants := by
  refine ⟨?_, ?_, rfl, fun s ht => ⟨applyReset_inv ht, checksumInv_of_idle rfl⟩, fun s hb => hb⟩
  · rw [← applyReset_reset]
    exact applyReset_inv rfl
  · rw [← applyReset_reset]
    exact checksumInv_of_idle rfl

/-! ### Every step answers -/

/-- In an invariant state the header phases have a header byte. -/
theorem headerByte_of_le {s : State} (h : s.idx.toNat ≤ 4) : ∃ b, headerByte s = some b :=
  Option.isSome_iff_exists.1 ((headerByte_isSome s).trans (decide_eq_true h))

theorem afterHeaderWrite_answers (s : State) : ∃ t, afterHeaderWrite s = .next t :=
  let ⟨t, h, _⟩ := afterHeaderWrite_trace s
  ⟨t, h⟩

theorem afterFillerWrite_answers {s : State} (h : s.idx.toNat < s.txfill.toNat) : ∃ t, afterFillerWrite s = .next t := by
  unfold afterFillerWrite
  split
  · exact ⟨_, rfl⟩
  · rw [if_pos (by omega)]
    exact ⟨_, rfl⟩

/-- A row with a primitive answers if its act does, on the state with the call counted. -/
theorem withCall_answers_called {act : State → Answer} {s : State}
    (h : s.callsLeft ≠ some 0 → ∃ t, act (called s) = .next t) : ∃ t, withCall act s = .next t := by
  by_cases hc : s.callsLeft = some 0
  · exact ⟨s, withCall_stuck act hc⟩
  · rw [withCall_returns act hc]
    exact h hc

/-- With `IDX` in its range the row of an operation answers: the header byte, the filler count and the place in `RXBUF` that
it may ask for exist; that place is asked for in `RX_PAY_RD` once its read has returned. -/
theorem exec_answers {i : Instr} {s : State} (hi : IndexOk s)
    (hroom : s.phase = .rxPayRd → s.callsLeft ≠ some 0 → s.idx.toNat < s.cfg.rxbufSize) : ∃ t, exec i s = .next t := by
  rw [exec_eq]
  cases hp : s.phase <;> simp only [operationStep, hp] <;> simp only [IndexOk, hp] at hi
  case idle | build | classify | initmap | done => exact ⟨_, rfl⟩
  case txExec | txCkLo | txCkHi => exact withCall_answers fun _ => writeOrAbort_answers ⟨_, rfl⟩
  case txHdrUpd =>
    obtain ⟨b, hb⟩ := headerByte_of_le hi
    simp only [rowTxHdrUpd, hb]
    exact withCall_answers fun _ => ⟨_, rfl⟩
  case txHdrWr =>
    obtain ⟨b, hb⟩ := headerByte_of_le hi
    simp only [rowTxHdrWr, hb]
    exact withCall_answers fun _ => writeOrAbort_answers (afterHeaderWrite_answers _)
  case txFillWr => exact withCall_answers_called fun _ => writeOrAbort_answers (afterFillerWrite_answers hi)
  case rxPayRd =>
    refine withCall_answers_called fun hc => ?_
    have hin : idxInRxbuf (called s) = true := decide_eq_true (hroom hp hc)
    exact ⟨_, if_pos hin⟩
  case rxPayUpd =>
    have hin : idxInRxbuf s = true := decide_eq_true hi.2
    rw [rowRxPayUpd, if_pos hin]
    exact withCall_answers fun _ => ⟨_, rfl⟩
  all_goals exact withCall_answers fun _ => ⟨_, rfl⟩

/-- In a busy phase of the invariant `CMD` names the running operation. -/
theorem decode_cmd_of_inv {s : State} (hs : Inv s) (hi : s.phase ≠ .idle) : ∃ i, decode s.cmd = .ok i :=
  hs.command.resolve_right fun h => hi h.1

/-- Settles O39: in `IDLE` every step answers, and in a busy phase `CMD` names an operation whose row does. -/
theorem everyStepFromInvariantStatesAnswers : Obligations.EveryStepFromInvariantStatesAnswers := by
  intro s hs hroom
  by_cases hi : s.phase = .idle
  · rcases step_cases s with ⟨-, h, -⟩ | ⟨-, -, w, rest, -, ⟨i, -, h⟩ | ⟨e, -, h⟩⟩ | ⟨hb, -⟩ | ⟨hb, -⟩
    · exact ⟨_, h⟩
    · exact ⟨_, h.trans (exec_idle hi)⟩
    · exact ⟨_, h⟩
    · exact absurd hi hb
    · exact absurd hi hb
  · obtain ⟨i, hd⟩ := decode_cmd_of_inv hs hi
    rw [step_busy hi hd]
    refine exec_answers hs.index fun hp _ => ?_
    have hidx := hs.index
    have hpay := payloadLen_le s
    simp only [IndexOk, hp] at hidx
    omega

/-- Settles O43: the row answers, and a row whose primitive never returns changes nothing. -/
theorem callThatNeverReturnsHoldsThePhase : Obligations.CallThatNeverReturnsHoldsThePhase := by
  intro s hs hcall hc
  have hi : s.phase ≠ .idle := fun hp => by simp [hp, callsPrimitive] at hcall
  obtain ⟨i, hd⟩ := decode_cmd_of_inv hs hi
  obtain ⟨t, ht⟩ := exec_answers (i := i) hs.index fun _ hne => absurd hc hne
  have hstuck : t = s := rowStep_stuck (exec_rowStep hi ht) hcall hc
  rw [step_busy hi hd, ht, hstuck]
  exact ⟨rfl, hs.busy.2 hi⟩

end Sys2Proof.Machine
end

section
/-! SUPPORT. The checksum invariant (40_checksum_sequencer.md R92 to R95): what the engine has been fed in each phase, the
command checksum, and the received frame's verdict. -/

namespace Sys2Proof.Machine

section
variable {i : Instr} {s t : State}

/-- The frame descriptor and `RXBUF` are written by RECEIVE's own rows (43_frame_receiver.md R120). -/
theorem rowStep_frmLength (h : RowStep i s t) (hs : s.phase ≠ .rxLenRd) : t.frmLength = s.frmLength := by
  cases h with
  | rxLenRd hp => exact absurd hp hs
  | build => rw [buildOf_eq]; rfl
  | initmap => obtain ⟨k, c, -, he⟩ := initMap_eq_setRes s; rw [he]; rfl
  | _ => simp

theorem rowStep_rxbuf (h : RowStep i s t) (hs : s.phase ≠ .rxPayRd) : t.rxbuf = s.rxbuf := by
  cases h with
  | rxPayRd hp => exact absurd hp hs
  | build => rw [buildOf_eq]; rfl
  | initmap => obtain ⟨k, c, -, he⟩ := initMap_eq_setRes s; rw [he]; rfl
  | _ => simp

@[simp] theorem payloadBytes_zero (s : State) : payloadBytes s 0 = [] := rfl

/-- The engine has been fed what the phase says. -/
def EngineFed (s : State) : Prop := ∀ bs, fedOf s = some bs → s.eng = { seed := s.cfg.crcSeed, fed := bs }

theorem header_length (s : State) : (header s).length = 5 := rfl

/-- Each row feeds the engine the byte by which its phase's fed bytes and the next one's differ (R92, R93). -/
theorem rowStep_engineFed (h : RowStep i s t) (hi : IndexOk s) (hf : s.phase ≠ .build → s.txfill.toNat ≤ 248)
    (heng : EngineFed s) : EngineFed t := by
  have hcfg := rowStep_cfg h
  have hhead : s.phase ≠ .build → header t = header s := fun hb =>
    have ⟨h1, h2, h3, h4, _⟩ := rowStep_packet h hb
    header_congr h1 h2 h3 h4
  have hlen : s.phase ≠ .rxLenRd → payloadLen t = payloadLen s := fun hl => congrArg payloadCount (rowStep_frmLength h hl)
  have hpay : s.phase ≠ .rxPayRd → ∀ n, payloadBytes t n = payloadBytes s n :=
    fun hp => payloadBytes_congr (rowStep_rxbuf h hp)
  have hcount := payloadLen_le s
  unfold EngineFed at heng ⊢
  cases h with
  | stuck => exact heng
  | txAbort | classify =>
    have hnone : ∀ u, fedOf (goto (afterOf i) u) = none := fun u => by cases i <;> rfl
    simp [hnone]
  | txHdrUpd b hp hc hb =>
    simp [fedOf, hp, engUpdate] at heng hhead ⊢
    simp [heng, hhead, take_header hb]
  | txHdrWrNext b hp hc hb ha hlt =>
    have hsucc := idx_succ (x := s.idx) (by omega)
    simp only [fedOf, hp, goto_phase, Option.some.injEq, forall_eq', goto_idx, setIdx_idx, hsucc] at heng ⊢
    simpa [hhead, hp] using heng
  | txHdrWrFill b hp hc hb ha hge hfill | txHdrWrLast b hp hc hb ha hge hfill =>
    have hall : (header s).take (s.idx.toNat + 1) = header s := List.take_of_length_le (by rw [header_length]; omega)
    simp [fedOf, hp, hall, frameBody] at heng hhead ⊢
    simp_all
  | txFillUpd hp =>
    simp [fedOf, hp, engUpdate] at heng hhead ⊢
    simp [heng, hhead, List.replicate_succ']
  | txFillWrNext hp hc ha hlt =>
    have hle := hf (by simp [hp])
    have hsucc := idx_succ (x := s.idx) (by omega)
    simp only [fedOf, hp, goto_phase, Option.some.injEq, forall_eq', goto_idx, setIdx_idx, hsucc] at heng ⊢
    simpa [hhead, hp] using heng
  | txFillWrLast hp hc ha heq =>
    simp only [fedOf, hp, Option.some.injEq, forall_eq', heq] at heng
    simpa [fedOf, frameBody, hhead, hp] using heng
  | rxLenUpdNone hp hc hm =>
    have hzero : payloadLen s = 0 := by omega
    simp [fedOf, hp, engUpdate] at heng hpay hlen ⊢
    simp [heng, hpay, hlen, hzero]
  | rxPayRd hp =>
    have hkeep : payloadBytes (goto .rxPayUpd (writeByte .rxbuf s.idx.toNat (nextByte s) (busRead .ack (called s))))
        s.idx.toNat = payloadBytes s s.idx.toNat := payloadBytes_writeByte (busRead .ack (called s)) _ _
    simp only [fedOf, hp, goto_phase, Option.some.injEq, forall_eq', goto_idx, writeByte_idx, busRead_idx, called_idx,
      hkeep] at heng ⊢
    simpa using heng
  | rxPayUpdNext hp hc hroom hm =>
    have hsucc := idx_succ (x := s.idx) (by omega)
    simp only [fedOf, hp, goto_phase, Option.some.injEq, forall_eq', goto_idx, setIdx_idx, hsucc] at heng ⊢
    simp [heng, hpay, hp, payloadBytes_succ, engUpdate]
  | rxPayUpdLast hp hc hroom hm =>
    simp only [IndexOk, hp] at hi
    have hlast : payloadLen s = s.idx.toNat + 1 := by omega
    simp only [fedOf, hp, goto_phase, Option.some.injEq, forall_eq'] at heng ⊢
    simp [heng, hpay, hlen, hlast, hp, payloadBytes_succ, engUpdate]
  | _ =>
    rename s.phase = _ => hp
    simp [fedOf, hp, engUpdate, engInit] at heng hhead hpay hlen ⊢ <;> simp [*]

/-- `PKT.CHECKSUM` is written in `TX_CRCRES` only (42_frame_transmitter.md R114). -/
theorem rowStep_pktChecksum (h : RowStep i s t) (hs : s.phase ≠ .txCrcRes) : t.pktChecksum = s.pktChecksum := by
  cases h with
  | txCrcRes hp => exact absurd hp hs
  | build => rw [buildOf_eq]; rfl
  | initmap => obtain ⟨k, c, -, he⟩ := initMap_eq_setRes s; rw [he]; rfl
  | _ => simp

/-- `TX_CRCRES` begins the phases in which `PKT.CHECKSUM` is in use. -/
theorem rowStep_checksumSent (h : RowStep i s t) (ht : checksumSent t.phase = true) :
    s.phase = .txCrcRes ∨ (s.phase ≠ .txCrcRes ∧ s.phase ≠ .build ∧ checksumSent s.phase = true) := by
  have hafter : checksumSent (afterOf i) = false := by cases i <;> rfl
  cases h with
  | stuck =>
    by_cases hp : s.phase = .txCrcRes
    · exact .inl hp
    · exact .inr ⟨hp, fun hb => by simp [hb, checksumSent, inReceive] at ht, ht⟩
  | txAbort | classify => simp [hafter] at ht
  | _ => simp_all [checksumSent, inReceive]

/-- The command checksum covers header and fillers (40_checksum_sequencer.md R94). -/
theorem rowStep_commandChecksum (h : RowStep i s t) (heng : EngineFed s)
    (hcmd : checksumSent s.phase = true → s.pktChecksum = crcOf s.cfg (frameBody s)) (ht : checksumSent t.phase = true) :
    t.pktChecksum = crcOf t.cfg (frameBody t) := by
  have hbody : s.phase ≠ .build → frameBody t = frameBody s := fun hb =>
    have ⟨h1, h2, h3, h4, h5⟩ := rowStep_packet h hb
    frameBody_congr h1 h2 h3 h4 h5 (rowStep_cfg h)
  rcases rowStep_checksumSent h ht with hp | ⟨hne, hb, hsent⟩
  · rw [hbody (by simp [hp]), rowStep_cfg h]
    have hval : crcValue s = crcOf s.cfg (frameBody s) := crcValue_eq (heng _ (by rw [fedOf, hp]))
    cases h with
    | txCrcRes => simpa using hval
    | stuck => simp [hp, checksumSent, inReceive] at ht
    | _ => simp_all
  · rw [hbody hb, rowStep_cfg h, rowStep_pktChecksum h hne, hcmd hsent]

/-- `CLASSIFY` begins with the computed checksum and its comparison (40_checksum_sequencer.md R95). -/
theorem rowStep_verdict (h : RowStep i s t) (heng : EngineFed s) (ht : t.phase = .classify) :
    t.calcReg = crcOf t.cfg (t.frmLength :: payloadBytes t (payloadLen t)) ∧
      t.frmValid = decide (t.calcReg = t.frmChecksum) := by
  have hafter : afterOf i ≠ .classify := by cases i <;> simp [afterOf]
  cases h with
  | rxCrcRes hp =>
    have hval : crcValue s = crcOf s.cfg (s.frmLength :: payloadBytes s (payloadLen s)) :=
      crcValue_eq (heng _ (by rw [fedOf, hp]))
    exact ⟨hval, rfl⟩
  | stuck _ hp => simp [ht, callsPrimitive] at hp
  | txAbort | classify => exact absurd ht hafter
  | _ => cases ht

/-- The payload bytes that the phase counts as read have been written (43_frame_receiver.md R124). -/
def PayloadWritten (s : State) : Prop :=
  (s.phase = .rxPayUpd → (memRead s.rxbuf s.idx.toNat).isSome) ∧
    (s.phase = .rxPayRd ∨ s.phase = .rxPayUpd → ∀ i < s.idx.toNat, (memRead s.rxbuf i).isSome) ∧
    ((s.phase = .rxCkLo ∨ s.phase = .rxCkHi ∨ s.phase = .rxStop ∨ s.phase = .rxCrcRes ∨ s.phase = .classify) →
      ∀ i < payloadLen s, (memRead s.rxbuf i).isSome)

theorem rowStep_payloadWritten (h : RowStep i s t) (hi : IndexOk s) (hw : PayloadWritten s) : PayloadWritten t := by
  have hafter : ∀ p, p ≠ .initmap → p ≠ .done → afterOf i ≠ p := by cases i <;> simp [afterOf] <;> tauto
  unfold PayloadWritten at hw ⊢
  have ⟨hcur, hbefore, _⟩ := hw
  have hlen : s.phase ≠ .rxLenRd → payloadLen t = payloadLen s := fun hl => congrArg payloadCount (rowStep_frmLength h hl)
  cases h with
  | stuck => exact hw
  | txAbort | classify => simp [hafter]
  | rxPayRd hp =>
    refine ⟨fun _ => by simp [writeByte, memRead_memWrite_same], fun _ i hlt => ?_, by simp⟩
    have hlt : i < s.idx.toNat := hlt
    have hkept := memRead_memWrite_ne s.rxbuf s.idx.toNat i (nextByte s) (by omega)
    simpa [writeByte, hkept] using hbefore (.inl hp) i hlt
  | rxPayUpdNext hp hc hroom hm =>
    have hcount := payloadLen_le s
    have hsucc := idx_succ (x := s.idx) (by omega)
    refine ⟨by simp, fun _ i hlt => ?_, by simp⟩
    simp only [goto_idx, setIdx_idx, hsucc] at hlt
    rcases Nat.lt_succ_iff_lt_or_eq.mp hlt with hlt | rfl
    · simpa using hbefore (.inr hp) i hlt
    · simpa using hcur hp
  | rxPayUpdLast hp hc hroom hm =>
    simp only [IndexOk, hp] at hi
    have hlast : payloadLen s = s.idx.toNat + 1 := by omega
    refine ⟨by simp, by simp, fun _ i hlt => ?_⟩
    rw [hlen (by simp [hp]), hlast] at hlt
    rcases Nat.lt_succ_iff_lt_or_eq.mp hlt with hlt | rfl
    · simpa using hbefore (.inr hp) i hlt
    · simpa using hcur hp
  | _ =>
    rename s.phase = _ => hp
    simp [hp] at hw hlen ⊢ <;> simp_all

end

/-- Settles O40: a row keeps each part; in `IDLE` nothing is claimed. -/
theorem everyStepKeepsTheChecksums : Obligations.EveryStepKeepsTheChecksums := by
  intro s t hs hck h
  rcases step_next h with ⟨-, rfl⟩ | ⟨-, -, j, rest, -, rfl⟩ | ⟨hi, -, rest, rfl⟩ | ⟨hi, i, hd, -, hrow⟩
  · exact hck
  · exact ⟨nofun, nofun, nofun, nofun, nofun, nofun⟩
  · exact checksumInv_of_idle hi
  · exact ⟨rowStep_engineFed hrow hs.index (txfill_le hs.packet hd hi) hck.engine,
      rowStep_commandChecksum hrow hck.engine hck.command, rowStep_verdict hrow hck.engine,
      rowStep_payloadWritten hrow hs.index hck.payload⟩

end Sys2Proof.Machine
end

section
/-! SUPPORT. Every operation ends (44_operations.md R139): a number of steps, read off the phase and the loop indices, that
every step of a busy machine lowers. -/

namespace Sys2Proof.Machine

/-- How many steps at most lead from a busy state to `IDLE`: each phase counts one more than the longest way on, a loop phase
two per round left. -/
def stepsLeft (s : State) : Nat :=
  match s.phase with
  | .idle => 0
  | .done => 1
  | .initmap => 2
  | .classify | .txAbort => 3
  | .rxCrcRes => 4
  | .rxStop => 5
  | .rxCkHi => 6
  | .rxCkLo => 7
  | .rxPayUpd => 6 + 2 * (payloadLen s - s.idx.toNat)
  | .rxPayRd => 7 + 2 * (payloadLen s - s.idx.toNat)
  | .rxLenUpd => 8 + 2 * payloadLen s
  | .rxLenRd => 513
  | .rxAddr => 514
  | .rxStart => 515
  | .rxCrcInit => 516
  | .wait => 517
  | .txStop => 518
  | .txCkHi => 519
  | .txCkLo => 520
  | .txCrcRes => 521
  | .txFillWr => 520 + 2 * (s.txfill.toNat - s.idx.toNat)
  | .txFillUpd => 521 + 2 * (s.txfill.toNat - s.idx.toNat)
  | .txHdrWr => 520 + 2 * s.txfill.toNat + 2 * (5 - s.idx.toNat)
  | .txHdrUpd => 521 + 2 * s.txfill.toNat + 2 * (5 - s.idx.toNat)
  | .txExec => 532 + 2 * s.txfill.toNat
  | .txAddr => 533 + 2 * s.txfill.toNat
  | .txStart => 534 + 2 * s.txfill.toNat
  | .txCrcInit => 535 + 2 * s.txfill.toNat
  | .build => 1032

/-- The longest way is BUILD of the longest command, answered by the longest frame. -/
theorem stepsLeft_le {s : State} (hs : Inv s) : stepsLeft s ≤ 1032 := by
  have hcount := payloadLen_le s
  by_cases hi : s.phase = .idle
  · simp [stepsLeft, hi]
  by_cases hb : s.phase = .build
  · simp [stepsLeft, hb]
  obtain ⟨i, hd⟩ := decode_cmd_of_inv hs hi
  have hfill := txfill_le hs.packet hd hi hb
  unfold stepsLeft
  cases hp : s.phase <;> simp only <;> omega

theorem stepsLeft_goto_afterOf (i : Instr) (u : State) : stepsLeft (goto (afterOf i) u) ≤ 2 := by
  cases i <;> simp [stepsLeft, afterOf]

/-- Every row whose call returns lowers it. -/
theorem rowStep_stepsLeft {i : Instr} {s t : State} (h : RowStep i s t) (hd : decode s.cmd = .ok i) (hs : Inv s)
    (hi : s.phase ≠ .idle) (hc : s.callsLeft = none) : stepsLeft t < stepsLeft s := by
  have hindex := hs.index
  have hcount := payloadLen_le s
  have hcount' := payloadLen_le t
  have ht := rowStep_inv h hd hs hi
  have hfill : t.phase ≠ .idle → t.phase ≠ .build → t.txfill.toNat ≤ 248 := txfill_le ht.packet (by rw [rowStep_cmd h, hd])
  have hlen : s.phase ≠ .rxLenRd → payloadLen t = payloadLen s := fun hl => congrArg payloadCount (rowStep_frmLength h hl)
  cases h with
  | stuck hz => simp [hc] at hz
  | txAbort hp | classify hp =>
    have hleft : stepsLeft s = 3 := by rw [stepsLeft, hp]
    rw [hleft]
    exact Nat.lt_succ_of_le (stepsLeft_goto_afterOf i _)
  | build hp =>
    have hleft : stepsLeft s = 1032 := by rw [stepsLeft, hp]
    have hmost := hfill (by simp) (by simp)
    rw [hleft]
    simp only [stepsLeft, goto_phase]
    omega
  | txHdrWrNext | txFillWrNext | txFillWrLast | rxPayUpdNext | rxPayUpdLast =>
    rename s.phase = _ => hp
    simp only [IndexOk, hp] at hindex
    have hsucc := idx_succ (x := s.idx) (by simp at hfill; omega)
    simp [stepsLeft, hp, hsucc] at hlen ⊢
    omega
  | _ =>
    rename s.phase = _ => hp
    simp only [IndexOk, hp] at hindex
    simp [stepsLeft, hp] at hlen hfill ⊢ <;> omega

theorem rowStep_callsLeft_none {i : Instr} {s t : State} (h : RowStep i s t) (hc : s.callsLeft = none) :
    t.callsLeft = none := by
  cases h <;> simp [hc]

/-- A busy machine whose calls return comes to `IDLE` in the steps it has left. -/
theorem run_to_idle {n : Nat} : ∀ {s : State}, stepsLeft s ≤ n → Inv s → 252 ≤ s.cfg.rxbufSize → s.callsLeft = none →
    ∃ (k : Nat) (t : State), k ≤ n ∧ Host.Core.run Sys2Proof.core k s = .next t ∧ t.phase = .idle ∧ Inv t := by
  induction n with
  | zero =>
    intro s hn hs _ _
    have hi : s.phase = .idle := by
      cases hp : s.phase <;> simp [stepsLeft, hp] at hn
      rfl
    exact ⟨0, s, le_rfl, rfl, hi, hs⟩
  | succ n ih =>
    intro s hn hs hroom hc
    by_cases hi : s.phase = .idle
    · exact ⟨0, s, Nat.zero_le _, rfl, hi, hs⟩
    obtain ⟨t, hstep⟩ := everyStepFromInvariantStatesAnswers s hs hroom
    obtain ⟨i, hd⟩ := decode_cmd_of_inv hs hi
    have hrow : RowStep i s t := exec_rowStep hi (step_busy hi hd ▸ hstep)
    have hlower := rowStep_stepsLeft hrow hd hs hi hc
    obtain ⟨k, u, hk, hrun, hidle, hu⟩ := ih (by omega) (rowStep_inv hrow hd hs hi) (by rw [rowStep_cfg hrow]; exact hroom)
      (rowStep_callsLeft_none hrow hc)
    exact ⟨k + 1, u, by omega, by rw [run_step hstep, hrun], hidle, hu⟩

/-- Settles O35. -/
theorem everyOperationEnds : Obligations.EveryOperationEnds := by
  intro s hs hroom _ hc
  obtain ⟨k, t, hk, hrun, hidle, ht⟩ := run_to_idle (stepsLeft_le hs) hs hroom hc
  exact ⟨k, t, hk, hrun, hidle, by simpa [hidle] using ht.busy⟩

end Sys2Proof.Machine
end

section
/-! SUPPORT. TRANSMIT as a whole (42_frame_transmitter.md R110 to R115): the state after `n` frame bytes, the two steps that
send one more, and from them the runs in which every write is answered `ok` or write number `k` fails. -/

namespace Sys2Proof.Machine

/-- The events from `CrcInit` to the execute byte. -/
def transmitOpening (c : Params) : List Event :=
  [.crcInit c.crcSeed, .busStart, .busAddress c.devAddr .write, .busWrite c.waExecute .ok]

/-- TRANSMIT from `s` with the device addressed. -/
def addressed (s : State) : State := goto .txExec (busAddress .write (goto .txAddr (busStart (goto .txStart (crcInit s)))))

/-- The phase and the index with which frame byte number `n` is fed: header, fillers, or the checksum after them. -/
def bodyPhase (s : State) (n : Nat) : Phase :=
  if n < 5 then .txHdrUpd else if n < 5 + s.txfill.toNat then .txFillUpd else .txCrcRes

def bodyIdx (n : Nat) : Byte := BitVec.ofNat 8 (if n < 5 then n else n - 5)

/-- TRANSMIT from `s`, begun in `TX_CRCINIT`, after the execute byte and `n` bytes of the frame body. -/
def bodySent (s : State) (n : Nat) (rest : List BusResult) : State :=
  { s with
    phase := bodyPhase s n
    idx := bodyIdx n
    eng := { seed := s.cfg.crcSeed, fed := (frameBody s).take n }
    txn := .openWrite
    acks := rest
    draws := s.draws + 1
    trace := s.trace ++ (transmitOpening s.cfg ++ feedAndWrite ((frameBody s).take n)) }

@[simp] theorem bodySent_cmd (s : State) (n : Nat) (rest : List BusResult) : (bodySent s n rest).cmd = s.cmd := rfl

@[simp] theorem bodySent_callsLeft (s : State) (n : Nat) (rest : List BusResult) :
    (bodySent s n rest).callsLeft = s.callsLeft := rfl

/-- The same with the next byte `b` fed to the engine and about to be written. -/
def bodyFed (s : State) (n : Nat) (b : Byte) (rest : List BusResult) : State :=
  goto (if n < 5 then .txHdrWr else .txFillWr) (crcUpdate b (bodySent s n rest))

theorem frameBody_length (s : State) : (frameBody s).length = 5 + s.txfill.toNat := by
  simp [frameBody, header_length]

section
variable {s : State} {i : Instr} {n : Nat} {b : Byte} {rest : List BusResult}

theorem bodyIdx_toNat (hn : n < 5 + s.txfill.toNat) : (bodyIdx n).toNat = if n < 5 then n else n - 5 := by
  have := s.txfill.isLt
  simp only [bodyIdx, BitVec.toNat_ofNat]
  split <;> omega

theorem bodyIdx_succ (h4 : n ≠ 4) : bodyIdx n + 1#8 = bodyIdx (n + 1) := by
  apply BitVec.eq_of_toNat_eq
  simp only [bodyIdx, BitVec.toNat_add, BitVec.toNat_ofNat]
  split <;> split <;> omega

/-- The byte at a header position is the header's, at a later one the filler (42_frame_transmitter.md R112). -/
theorem headerByte_bodySent (hn : n < 5) (hb : (frameBody s)[n]? = some b) : headerByte (bodySent s n rest) = some b := by
  have hidx : (bodySent s n rest).idx.toNat = n := by simp [bodySent, bodyIdx, hn]; omega
  rw [headerByte, hidx, ← hb, frameBody, List.getElem?_append_left (by rwa [header_length])]
  rfl

theorem filler_of_frameBody (hn : ¬n < 5) (hb : (frameBody s)[n]? = some b) : b = s.cfg.filler := by
  rw [frameBody, List.getElem?_append_right (by rw [header_length]; omega), List.getElem?_replicate] at hb
  simp at hb
  exact hb.2.symm

theorem lt_of_frameBody (hb : (frameBody s)[n]? = some b) : n < 5 + s.txfill.toNat :=
  frameBody_length s ▸ (List.getElem?_eq_some_iff.1 hb).1

theorem take_frameBody_succ (hb : (frameBody s)[n]? = some b) :
    (frameBody s).take (n + 1) = (frameBody s).take n ++ [b] := by
  simp [List.take_add_one, hb]

theorem feedAndWrite_concat (bs : List Byte) (b : Byte) :
    feedAndWrite (bs ++ [b]) = feedAndWrite bs ++ [.crcUpdate b, .busWrite b .ok] := by
  simp [feedAndWrite]

/-- A byte fed and written is one more byte sent. -/
theorem busWrite_bodyFed {v : Byte} (hb : (frameBody s)[n]? = some b) (hv : v = bodyIdx (n + 1)) :
    goto (bodyPhase s (n + 1)) (setIdx v (busWrite b (bodyFed s n b (.ok :: rest)))) = bodySent s (n + 1) rest := by
  rw [State.ext_iff]
  simp [bodyFed, bodySent, hv, nextAck, engUpdate, take_frameBody_succ hb, feedAndWrite_concat]

variable (hd : decode s.cmd = .ok i) (hc : s.callsLeft = none)
include hd hc

/-- The opening: engine, start condition, address … -/
theorem run_to_addressed (hp : s.phase = .txCrcInit) : Host.Core.run Sys2Proof.core 3 s = .next (addressed s) := by
  have hinit := step_txCrcInit hd hc hp
  have hstart := step_txStart (i := i) (s := goto .txStart (crcInit s)) (by simp [hd]) (by simp [hc]) rfl
  have haddr := step_txAddr (i := i) (s := goto .txAddr (busStart (goto .txStart (crcInit s))))
    (by simp [hd]) (by simp [hc]) rfl
  rw [run_step hinit, run_step hstart, run_step haddr, run_zero]
  rfl

/-- … and the execute byte. -/
theorem step_addressed (ha : s.acks = .ok :: rest) : step (addressed s) = .next (bodySent s 0 rest) := by
  rw [step_txExec (i := i) (s := addressed s) (by simp [addressed, hd]) (by simp [addressed, hc])
    (by simp [addressed, nextAck, ha]) rfl]
  refine congrArg Host.Outcome.next (State.ext_iff.2 ?_)
  simp [addressed, bodySent, bodyPhase, bodyIdx, transmitOpening, feedAndWrite, engInit, openedBy, ha, nextAck]

/-- One frame byte is fed to the engine … -/
theorem step_bodySent (hb : (frameBody s)[n]? = some b) : step (bodySent s n rest) = .next (bodyFed s n b rest) := by
  have hn := lt_of_frameBody hb
  by_cases h5 : n < 5
  · have hrow := step_txHdrUpd (i := i) (s := bodySent s n rest) hd hc (headerByte_bodySent h5 hb)
      (by simp [bodySent, bodyPhase, h5])
    rwa [bodyFed, if_pos h5]
  · have hrow := step_txFillUpd (i := i) (s := bodySent s n rest) hd hc (by simp [bodySent, bodyPhase, h5, hn])
    rw [hrow, bodyFed, if_neg h5, filler_of_frameBody h5 hb]
    rfl

/-- … and then written. -/
theorem step_bodyFed_ok (hb : (frameBody s)[n]? = some b) :
    step (bodyFed s n b (.ok :: rest)) = .next (bodySent s (n + 1) rest) := by
  have hn := lt_of_frameBody hb
  have hidx : (bodyFed s n b (.ok :: rest)).idx.toNat = _ := bodyIdx_toNat hn
  have htx : (bodyFed s n b (.ok :: rest)).txfill = s.txfill := rfl
  by_cases h5 : n < 5
  · have hhead : headerByte (bodyFed s n b (.ok :: rest)) = some b := headerByte_bodySent (rest := .ok :: rest) h5 hb
    rw [step_txHdrWr (i := i) (s := bodyFed s n b (.ok :: rest)) hd hc hhead rfl (by simp [bodyFed, h5]), hidx, if_pos h5,
      htx]
    by_cases h4 : n < 4
    · have hphase : bodyPhase s (n + 1) = .txHdrUpd := by simp [bodyPhase, h4]
      rw [if_pos h4, ← busWrite_bodyFed hb (bodyIdx_succ (by omega)), hphase]
      rfl
    · obtain rfl : n = 4 := by omega
      rw [if_neg h4, ← busWrite_bodyFed hb (v := 0#8) rfl]
      by_cases hf : s.txfill.toNat > 0
      · have hphase : bodyPhase s (4 + 1) = .txFillUpd := by simp [bodyPhase, hf]
        rw [if_pos hf, hphase]
      · have hphase : bodyPhase s (4 + 1) = .txCrcRes := by simp [bodyPhase, hf]
        rw [if_neg hf, hphase]
  · rw [step_txFillWr (i := i) (s := bodyFed s n b (.ok :: rest)) hd hc rfl (by simp [bodyFed, h5]), hidx, if_neg h5, htx]
    rw [← busWrite_bodyFed hb (bodyIdx_succ (by omega)), filler_of_frameBody h5 hb]
    by_cases hlast : n - 5 + 1 < s.txfill.toNat
    · have hphase : bodyPhase s (n + 1) = .txFillUpd := by rw [bodyPhase, if_neg (by omega), if_pos (by omega)]
      rw [if_pos hlast, hphase]
      rfl
    · have hphase : bodyPhase s (n + 1) = .txCrcRes := by rw [bodyPhase, if_neg (by omega), if_neg (by omega)]
      rw [if_neg hlast, if_pos (by omega), hphase]
      rfl

/-- The write fails: the abort phase, and then the abort (42_frame_transmitter.md R111). -/
theorem step_bodyFed_fail (hb : (frameBody s)[n]? = some b) :
    step (bodyFed s n b (.busError :: rest)) = .next (goto .txAbort (busWrite b (bodyFed s n b (.busError :: rest)))) := by
  by_cases h5 : n < 5
  · have hhead : headerByte (bodyFed s n b (.busError :: rest)) = some b :=
      headerByte_bodySent (rest := .busError :: rest) h5 hb
    exact step_txHdrWr_fail (i := i) (s := bodyFed s n b (.busError :: rest)) hd hc rfl hhead (by simp [bodyFed, h5])
  · have hrow := step_txFillWr_fail (i := i) (s := bodyFed s n b (.busError :: rest)) hd hc rfl (by simp [bodyFed, h5])
    rwa [filler_of_frameBody h5 hb] at hrow ⊢

/-- `n` frame bytes: the opening and `n` rounds. -/
theorem run_to_bodySent (hp : s.phase = .txCrcInit) (hn : n ≤ 5 + s.txfill.toNat)
    (ha : s.acks = List.replicate (n + 1) .ok ++ rest) :
    Host.Core.run Sys2Proof.core (4 + 2 * n) s = .next (bodySent s n rest) := by
  induction n generalizing rest with
  | zero => exact run_snoc (run_to_addressed hd hc hp) (step_addressed hd hc ha)
  | succ n ih =>
    have hbefore := ih (rest := .ok :: rest) (by omega) (by rw [ha, List.replicate_succ', List.append_assoc]; rfl)
    have hb : (frameBody s)[n]? = some _ := List.getElem?_eq_getElem (by rw [frameBody_length]; omega)
    exact run_snoc (run_snoc hbefore (step_bodySent hd hc hb)) (step_bodyFed_ok hd hc hb)

end

/-! ### The command checksum -/

/-- TRANSMIT with the whole body sent and the checksum asked for (42_frame_transmitter.md R112). -/
def checksumAsked (s : State) (rest : List BusResult) : State :=
  goto .txCkLo (setPktChecksum (crcOf s.cfg (frameBody s)) (crcResult (bodySent s (5 + s.txfill.toNat) rest)))

/-- The same with the low byte of the checksum sent. -/
def checksumLoSent (s : State) (rest : List BusResult) : State :=
  goto .txCkHi (busWrite (loByte (crcOf s.cfg (frameBody s))) (checksumAsked s (.ok :: rest)))

section
variable (s : State) (rest : List BusResult)

@[simp] theorem checksumAsked_cmd : (checksumAsked s rest).cmd = s.cmd := by simp [checksumAsked, bodySent]
@[simp] theorem checksumAsked_callsLeft : (checksumAsked s rest).callsLeft = s.callsLeft := by
  simp [checksumAsked, bodySent]
@[simp] theorem checksumAsked_acks : (checksumAsked s rest).acks = rest := by simp [checksumAsked, bodySent]
@[simp] theorem checksumLoSent_cmd : (checksumLoSent s rest).cmd = s.cmd := by simp [checksumLoSent]
@[simp] theorem checksumLoSent_callsLeft : (checksumLoSent s rest).callsLeft = s.callsLeft := by simp [checksumLoSent]
@[simp] theorem checksumLoSent_acks : (checksumLoSent s rest).acks = rest := by simp [checksumLoSent]

end

/-- TRANSMIT at its end, every write answered `ok`. -/
def transmitted (s : State) (rest : List BusResult) : State :=
  { s with
    phase := .wait
    pktChecksum := crcOf s.cfg (frameBody s)
    written := { s.written with pktChecksum := true }
    idx := bodyIdx (5 + s.txfill.toNat)
    eng := { seed := s.cfg.crcSeed, fed := frameBody s }
    txn := .closed
    acks := rest
    draws := s.draws + 1
    trace := s.trace ++ transmitEvents s.cfg (frameBody s) (crcOf s.cfg (frameBody s)) }

theorem take_frameBody (s : State) : (frameBody s).take (5 + s.txfill.toNat) = frameBody s :=
  List.take_of_length_le (frameBody_length s).le

theorem crcValue_bodySent (s : State) (rest : List BusResult) :
    crcValue (bodySent s (5 + s.txfill.toNat) rest) = crcOf s.cfg (frameBody s) :=
  crcValue_eq (by simp [bodySent, take_frameBody])

section
variable {s : State} {i : Instr} {rest : List BusResult} (hd : decode s.cmd = .ok i) (hc : s.callsLeft = none)
include hd hc

theorem run_to_checksumAsked (hp : s.phase = .txCrcInit) (ha : s.acks = List.replicate (6 + s.txfill.toNat) .ok ++ rest) :
    Host.Core.run Sys2Proof.core (4 + 2 * (5 + s.txfill.toNat) + 1) s = .next (checksumAsked s rest) := by
  have hbody := run_to_bodySent hd hc hp le_rfl (by rw [ha]; congr 2; omega)
  have hrow := step_txCrcRes (i := i) (s := bodySent s (5 + s.txfill.toNat) rest) hd hc (by simp [bodySent, bodyPhase])
  rw [crcValue_bodySent] at hrow
  exact run_snoc hbody hrow

theorem run_to_checksumLoSent (hp : s.phase = .txCrcInit)
    (ha : s.acks = List.replicate (7 + s.txfill.toNat) .ok ++ rest) :
    Host.Core.run Sys2Proof.core (4 + 2 * (5 + s.txfill.toNat) + 2) s = .next (checksumLoSent s rest) := by
  have hasked := run_to_checksumAsked hd hc hp (rest := .ok :: rest) (by
    rw [ha, show 7 + s.txfill.toNat = 6 + s.txfill.toNat + 1 by omega, List.replicate_succ', List.append_assoc]
    rfl)
  have hlo := step_txCkLo (i := i) (s := checksumAsked s (.ok :: rest)) (by simp [hd]) (by simp [hc]) (by simp [nextAck]) rfl
  exact run_snoc hasked hlo

/-- The run of a TRANSMIT in which every write is answered `ok`. -/
theorem run_transmit (hp : s.phase = .txCrcInit) (ha : s.acks = List.replicate (8 + s.txfill.toNat) .ok ++ rest) :
    Host.Core.run Sys2Proof.core (4 + 2 * (5 + s.txfill.toNat) + 4) s = .next (transmitted s rest) := by
  have hsent := run_to_checksumLoSent hd hc hp (rest := .ok :: rest) (by
    rw [ha, show 8 + s.txfill.toNat = 7 + s.txfill.toNat + 1 by omega, List.replicate_succ', List.append_assoc]
    rfl)
  have hhi := step_txCkHi (i := i) (s := checksumLoSent s (.ok :: rest)) (by simp [hd]) (by simp [hc])
    (by simp [nextAck]) rfl
  have hstop := step_txStop (i := i)
    (s := goto .txStop (busWrite (hiByte (checksumLoSent s (.ok :: rest)).pktChecksum) (checksumLoSent s (.ok :: rest))))
    (by simp [hd]) (by simp [hc]) rfl
  rw [run_snoc (run_snoc hsent hhi) hstop]
  refine congrArg Host.Outcome.next (State.ext_iff.2 ?_)
  simp [checksumLoSent, checksumAsked, transmitted, bodySent, crcValue, crcOf_eq, take_frameBody, nextAck, transmitEvents,
    transmitOpening]

end

/-- Settles O25. -/
theorem transmitSendsTheFrame : Obligations.TransmitSendsTheFrame := by
  intro s i rest hp hd hc ha
  exact ⟨_, _, run_transmit hd hc hp ha, by simp only [transmitted]⟩

end Sys2Proof.Machine
end

section
/-! SUPPORT. TRANSMIT with a failed write (42_frame_transmitter.md R111): write number 0 is the execute byte, then the frame
body, then the two checksum bytes. -/

namespace Sys2Proof.Machine

/-- What a TRANSMIT from `s` whose write `k` fails leaves, with the events `new` it added. -/
structure AbortedAt (s : State) (i : Instr) (k : Nat) (rest : List BusResult) (new : List Event) (t : State) : Prop where
  transport : new.filter onTransport = abortedTransport s.cfg (wireBytes s.cfg (frameBody s)) k
  engine : new.filter onEngine = abortedEngine s.cfg (frameBody s) k
  noDelay : ∀ ms, Event.delayMs ms ∉ new
  state : t = { s with
    phase := afterOf i
    pktChecksum := if 6 + s.txfill.toNat ≤ k then crcOf s.cfg (frameBody s) else s.pktChecksum
    written := { s.written with pktChecksum := s.written.pktChecksum || decide (6 + s.txfill.toNat ≤ k) }
    idx := t.idx
    eng := t.eng
    txn := .closed
    acks := rest
    draws := t.draws
    resKind := .busError
    resCode := s.cfg.stBusError
    trace := s.trace ++ new }

@[simp] theorem filter_onTransport_feedAndWrite (bs : List Byte) :
    (feedAndWrite bs).filter onTransport = bs.map (fun b => .busWrite b .ok) := by
  induction bs with
  | nil => rfl
  | cons b bs ih => exact congrArg (List.cons _) ih

@[simp] theorem filter_onEngine_feedAndWrite (bs : List Byte) :
    (feedAndWrite bs).filter onEngine = bs.map (fun b => .crcUpdate b) := by
  induction bs with
  | nil => rfl
  | cons b bs ih => exact congrArg (List.cons _) ih

@[simp] theorem delayMs_notMem_feedAndWrite (ms : Nat) (bs : List Byte) : Event.delayMs ms ∉ feedAndWrite bs := by
  simp [feedAndWrite]

@[simp] theorem filter_onTransport_transmitOpening (c : Params) :
    (transmitOpening c).filter onTransport = [.busStart, .busAddress c.devAddr .write, .busWrite c.waExecute .ok] := rfl

@[simp] theorem filter_onEngine_transmitOpening (c : Params) :
    (transmitOpening c).filter onEngine = [.crcInit c.crcSeed] := rfl

/-- The abort after the failed write of `b`. -/
def abortOf (i : Instr) (b : Byte) (u : State) : State := goto (afterOf i) (raiseBusError (goto .txAbort (busWrite b u)))

section
variable {s : State} {i : Instr} {n : Nat} {b : Byte} {rest : List BusResult}

theorem run_abortOf {u : State} (hd : decode u.cmd = .ok i) (hc : u.callsLeft = none)
    (h : step u = .next (goto .txAbort (busWrite b u))) : Host.Core.run Sys2Proof.core 2 u = .next (abortOf i b u) :=
  run_snoc (k := 1) (run_step h) (step_txAbort (by simpa using hd) (by simpa using hc) rfl)

variable (hd : decode s.cmd = .ok i) (hc : s.callsLeft = none)
include hd hc

/-- The execute byte fails. -/
theorem run_executeFails (hp : s.phase = .txCrcInit) (ha : s.acks = .busError :: rest) :
    ∃ (n : Nat) (t : State) (new : List Event), Host.Core.run Sys2Proof.core n s = .next t ∧ AbortedAt s i 0 rest new t := by
  have hexec := step_txExec_fail (i := i) (s := addressed s) (by simp [addressed, hd]) (by simp [addressed, hc])
    (by simp [addressed, nextAck, ha]) rfl
  have hstop := step_txAbort (i := i) (s := goto .txAbort (busWrite (addressed s).cfg.waExecute (setIdx 0#8 (addressed s))))
    (by simp [addressed, hd]) (by simp [addressed, hc]) rfl
  refine ⟨_, _, [.crcInit s.cfg.crcSeed, .busStart, .busAddress s.cfg.devAddr .write, .busWrite s.cfg.waExecute .busError,
    .busStop], run_snoc (run_snoc (run_to_addressed hd hc hp) hexec) hstop, ?_⟩
  constructor
  · simp [onTransport, abortedTransport, wireBytes]
  · simp [abortedEngine]
    rfl
  · simp
  · simp [State.ext_iff, addressed, raiseBusError, nextAck, ha]

/-- A byte of the frame body fails. -/
theorem run_bodyByteFails (hp : s.phase = .txCrcInit) (hn : n < 5 + s.txfill.toNat)
    (ha : s.acks = List.replicate (n + 1) .ok ++ .busError :: rest) :
    ∃ (m : Nat) (t : State) (new : List Event), Host.Core.run Sys2Proof.core m s = .next t ∧
      AbortedAt s i (n + 1) rest new t := by
  have hlen := frameBody_length s
  obtain ⟨b, hb⟩ : ∃ b, (frameBody s)[n]? = some b := ⟨_, List.getElem?_eq_getElem (by omega)⟩
  have hsent := run_to_bodySent hd hc hp hn.le ha
  have hfed := run_snoc hsent (step_bodySent hd hc hb)
  have hfail := run_append hfed (run_abortOf (by simpa [bodyFed] using hd) (by simpa [bodyFed] using hc)
    (step_bodyFed_fail hd hc hb))
  refine ⟨_, _, transmitOpening s.cfg ++ feedAndWrite ((frameBody s).take n) ++
    [.crcUpdate b, .busWrite b .busError, .busStop], hfail, ?_⟩
  constructor
  · have hend : [Event.crcUpdate b, .busWrite b .busError, .busStop].filter onTransport =
      [.busWrite b .busError, .busStop] := rfl
    simp [hend, abortedTransport, wireBytes, List.take_append_of_le_length (show n ≤ (frameBody s).length by omega),
      List.getElem?_append_left (show n < (frameBody s).length by omega), hb]
  · have hend : [Event.crcUpdate b, .busWrite b .busError, .busStop].filter onEngine = [.crcUpdate b] := rfl
    simp [hend, abortedEngine, take_frameBody_succ hb, show ¬(frameBody s).length < n + 1 by omega]
  · simp [transmitOpening]
  · simp [State.ext_iff, raiseBusError, nextAck, abortOf, bodyFed, bodySent, show ¬6 + s.txfill.toNat ≤ n + 1 by omega]

/-- The low byte of the checksum fails. -/
theorem run_checksumLoFails (hp : s.phase = .txCrcInit)
    (ha : s.acks = List.replicate (6 + s.txfill.toNat) .ok ++ .busError :: rest) :
    ∃ (m : Nat) (t : State) (new : List Event), Host.Core.run Sys2Proof.core m s = .next t ∧
      AbortedAt s i (6 + s.txfill.toNat) rest new t := by
  have hk : 6 + s.txfill.toNat = (frameBody s).length + 1 := by rw [frameBody_length]; omega
  have hfail := step_txCkLo_fail (i := i) (s := checksumAsked s (.busError :: rest)) (by simp [hd]) (by simp [hc])
    (by simp [nextAck]) rfl
  refine ⟨_, _, transmitOpening s.cfg ++ feedAndWrite (frameBody s) ++
    [.crcResult (crcOf s.cfg (frameBody s)), .busWrite (loByte (crcOf s.cfg (frameBody s))) .busError, .busStop],
    run_append (run_to_checksumAsked hd hc hp ha) (run_abortOf (i := i) (by simp [hd]) (by simp [hc]) hfail), ?_⟩
  constructor
  · have hend : [Event.crcResult (crcOf s.cfg (frameBody s)), .busWrite (loByte (crcOf s.cfg (frameBody s))) .busError,
      .busStop].filter onTransport = [.busWrite (loByte (crcOf s.cfg (frameBody s))) .busError, .busStop] := rfl
    simp [hend, hk, abortedTransport, wireBytes]
  · have hend : [Event.crcResult (crcOf s.cfg (frameBody s)), .busWrite (loByte (crcOf s.cfg (frameBody s))) .busError,
      .busStop].filter onEngine = [.crcResult (crcOf s.cfg (frameBody s))] := rfl
    simp [hend, hk, abortedEngine]
  · simp [transmitOpening]
  · simp [State.ext_iff, raiseBusError, nextAck, abortOf, checksumAsked, bodySent, crcValue, crcOf_eq, take_frameBody]

/-- The high byte of the checksum fails. -/
theorem run_checksumHiFails (hp : s.phase = .txCrcInit)
    (ha : s.acks = List.replicate (7 + s.txfill.toNat) .ok ++ .busError :: rest) :
    ∃ (m : Nat) (t : State) (new : List Event), Host.Core.run Sys2Proof.core m s = .next t ∧
      AbortedAt s i (7 + s.txfill.toNat) rest new t := by
  have hk : 7 + s.txfill.toNat = (frameBody s).length + 2 := by rw [frameBody_length]; omega
  have hfail := step_txCkHi_fail (i := i) (s := checksumLoSent s (.busError :: rest)) (by simp [hd]) (by simp [hc])
    (by simp [nextAck]) rfl
  have hck : (checksumLoSent s (.busError :: rest)).pktChecksum = crcOf s.cfg (frameBody s) := rfl
  rw [hck] at hfail
  refine ⟨_, _, transmitOpening s.cfg ++ feedAndWrite (frameBody s) ++
    [.crcResult (crcOf s.cfg (frameBody s)), .busWrite (loByte (crcOf s.cfg (frameBody s))) .ok,
      .busWrite (hiByte (crcOf s.cfg (frameBody s))) .busError, .busStop],
    run_append (run_to_checksumLoSent hd hc hp ha) (run_abortOf (i := i) (by simp [hd]) (by simp [hc]) hfail), ?_⟩
  generalize hw : crcOf s.cfg (frameBody s) = ck
  constructor
  · have hend : [Event.crcResult ck, .busWrite (loByte ck) .ok, .busWrite (hiByte ck) .busError, .busStop].filter
      onTransport = [.busWrite (loByte ck) .ok, .busWrite (hiByte ck) .busError, .busStop] := rfl
    simp [hend, hk, hw, abortedTransport, wireBytes, List.take_append]
  · have hend : [Event.crcResult ck, .busWrite (loByte ck) .ok, .busWrite (hiByte ck) .busError, .busStop].filter
      onEngine = [.crcResult ck] := rfl
    simp [hend, hk, hw, abortedEngine]
  · simp [transmitOpening]
  · simp [State.ext_iff, raiseBusError, nextAck, abortOf, checksumLoSent, checksumAsked, bodySent, crcValue, ← hw, crcOf_eq,
      take_frameBody]

/-- TRANSMIT aborts at its failed write, whichever it is. -/
theorem run_transmitFails {k : Nat} (hp : s.phase = .txCrcInit) (hk : k < 8 + s.txfill.toNat)
    (ha : s.acks = List.replicate k .ok ++ .busError :: rest) :
    ∃ (m : Nat) (t : State) (new : List Event), Host.Core.run Sys2Proof.core m s = .next t ∧
      AbortedAt s i k rest new t := by
  by_cases hhi : k = 7 + s.txfill.toNat
  · exact hhi ▸ run_checksumHiFails hd hc hp (hhi ▸ ha)
  by_cases hlo : k = 6 + s.txfill.toNat
  · exact hlo ▸ run_checksumLoFails hd hc hp (hlo ▸ ha)
  cases k with
  | zero => exact run_executeFails hd hc hp ha
  | succ n => exact run_bodyByteFails hd hc hp (by omega) ha

end

/-- Settles O26. -/
theorem transmitAbortsAtTheFailedWrite : Obligations.TransmitAbortsAtTheFailedWrite := by
  intro s i k rest hp hd hc hk ha
  obtain ⟨m, t, new, hrun, habort⟩ := run_transmitFails hd hc hp hk ha
  exact ⟨m, t, new, hrun, habort.transport, habort.engine, habort.noDelay, habort.state⟩

/-! ### When the checksum is asked for -/

theorem filter_writesByte_feedAndWrite_length (bs : List Byte) :
    ((feedAndWrite bs).filter writesByte).length = bs.length := by
  induction bs with
  | nil => rfl
  | cons b bs ih => exact congrArg (· + 1) ih

/-- No `CrcResult` while frame bytes are fed and written. -/
theorem crcResult_notMem_feedAndWrite (c : Word) (bs : List Byte) : Event.crcResult c ∉ feedAndWrite bs := by
  simp [feedAndWrite]

/-- An abort before the first checksum byte has not asked for the checksum. -/
theorem AbortedAt.crcResult_notMem {s t : State} {i : Instr} {k : Nat} {rest : List BusResult} {new : List Event}
    (h : AbortedAt s i k rest new t) (hk : k < 6 + s.txfill.toNat) (c : Word) : Event.crcResult c ∉ new := by
  intro hmem
  have hengine : Event.crcResult c ∈ new.filter onEngine := List.mem_filter.2 ⟨hmem, rfl⟩
  rw [h.engine, abortedEngine, frameBody_length, if_neg (by omega)] at hengine
  simp at hengine
  obtain ⟨b, -, hb⟩ := List.mem_map.1 (List.mem_of_mem_take hengine)
  cases hb

/-- Settles O27: the events of a TRANSMIT before its `CrcResult` are the opening and the frame body's. -/
theorem commandChecksumCoversTheFrameBeforeIt : Obligations.CommandChecksumCoversTheFrameBeforeIt := by
  intro s i rest hp hd hc
  refine ⟨fun ha => ?_, fun k hk ha => ?_⟩
  · refine ⟨_, _, transmitOpening s.cfg ++ feedAndWrite (frameBody s), run_transmit hd hc hp ha, rfl, rfl, ?_, ?_, ?_⟩
    · simp [transmitted, transmitEvents, transmitOpening]
    · have hopening : ((transmitOpening s.cfg).filter writesByte).length = 1 := rfl
      rw [List.filter_append, List.length_append, hopening, filter_writesByte_feedAndWrite_length, frameBody_length]
      omega
    · simp [transmitOpening, crcResult_notMem_feedAndWrite]
  · obtain ⟨m, t, new, hrun, habort⟩ := run_transmitFails hd hc hp (by omega) ha
    have ht := habort.state
    refine ⟨m, t, new, hrun, ?_, ?_, ?_, habort.crcResult_notMem hk⟩
    · rw [ht]
    · rw [ht]
    · rw [ht]
      exact if_neg (by omega)

end Sys2Proof.Machine
end

section
/-! SUPPORT. RECEIVE as a whole (43_frame_receiver.md R120 to R128): the state after `n` payload bytes, the two steps that
read one more, and from them the whole run, whatever the bus returns. -/

namespace Sys2Proof.Machine

/-! ### The bytes the bus returns -/

/-- A read returns the script's next byte if there is one. -/
theorem take_one_prefix_nextByte (s : State) : s.bytes.take 1 <+: [nextByte s] := by
  cases h : s.bytes <;> simp [nextByte, h]

/-- Reads that follow the script as far as it goes, one after the other. -/
theorem take_add_prefix {l xs ys : List Byte} {m n : Nat} (hm : xs.length = m) (hxs : l.take m <+: xs)
    (hys : (l.drop m).take n <+: ys) : l.take (m + n) <+: xs ++ ys := by
  rw [List.take_add]
  by_cases hlen : m ≤ l.length
  · have heq : l.take m = xs := hxs.eq_of_length (by rw [List.length_take, hm]; omega)
    rwa [heq, List.prefix_append_right_inj]
  · have hnil : l.drop m = [] := List.drop_eq_nil_of_le (by omega)
    rw [hnil, List.take_nil, List.append_nil]
    exact hxs.trans (List.prefix_append xs ys)

theorem storeBytes_concat (m : Memory) (i : Nat) (bs : List Byte) (b : Byte) :
    storeBytes m i (bs ++ [b]) = memWrite (storeBytes m i bs) (i + bs.length) b := by
  induction bs generalizing m i with
  | nil => rfl
  | cons c bs ih => simp [storeBytes, ih, Nat.add_assoc, Nat.add_comm 1]

theorem readAndFeed_concat (bs : List Byte) (b : Byte) :
    readAndFeed (bs ++ [b]) = readAndFeed bs ++ [.busRead .ack b, .crcUpdate b] := by
  simp [readAndFeed]

/-! ### The states of a RECEIVE -/

/-- RECEIVE from `s`, begun in `RX_CRCINIT`, before its first read. -/
def lengthAwaited (s : State) : State :=
  goto .rxLenRd (busAddress .read (goto .rxAddr (busStart (goto .rxStart (crcInit s)))))

/-- RECEIVE from `s` after the length byte and the payload bytes `bs`, with `rest` of the script left. -/
def payloadReceived (s : State) (len : Byte) (bs rest : List Byte) (d : Nat) : State :=
  { s with
    phase := if bs.length < payloadCount len then .rxPayRd else .rxCkLo
    frmLength := len
    written := { s.written with frmLength := true }
    rxbuf := storeBytes s.rxbuf 0 bs
    idx := BitVec.ofNat 8 bs.length
    eng := { seed := s.cfg.crcSeed, fed := len :: bs }
    txn := .openRead
    bytes := rest
    draws := d
    trace := s.trace ++ ([.crcInit s.cfg.crcSeed, .busStart, .busAddress s.cfg.devAddr .read, .busRead .ack len,
      .crcUpdate len] ++ readAndFeed bs) }

/-- RECEIVE from `s` at its end: the frame `len`, `payload`, `lo`, `hi` has been received and judged. -/
def frameReceived (s : State) (len : Byte) (payload : List Byte) (lo hi : Byte) (rest : List Byte) (d : Nat) : State :=
  { s with
    phase := .classify
    frmLength := len
    frmChecksum := joinBytes hi lo
    calcReg := crcOf s.cfg (len :: payload)
    frmValid := decide (crcOf s.cfg (len :: payload) = joinBytes hi lo)
    written := { s.written with frmLength := true, frmChecksum := true, calcReg := true }
    rxbuf := storeBytes s.rxbuf 0 payload
    idx := BitVec.ofNat 8 payload.length
    eng := { seed := s.cfg.crcSeed, fed := len :: payload }
    txn := .closed
    bytes := rest
    draws := d
    trace := s.trace ++ receiveEvents s.cfg len payload lo hi (crcOf s.cfg (len :: payload)) }

theorem payloadCount_le (len : Byte) : payloadCount len ≤ 252 := by
  unfold payloadCount frameOverhead
  omega

section
variable {i : Instr} {s : State} {len : Byte} {bs rest : List Byte} {d : Nat}
  (hd : decode s.cmd = .ok i) (hc : s.callsLeft = none)
include hd hc

/-- The opening, and the length byte fed to the engine. -/
theorem run_to_payload (hp : s.phase = .rxCrcInit) :
    ∃ d, Host.Core.run Sys2Proof.core 5 s =
      .next (payloadReceived s (nextByte (lengthAwaited s)) [] s.bytes.tail d) := by
  have hinit := step_rxCrcInit hd hc hp
  have hstart := step_rxStart (i := i) (s := goto .rxStart (crcInit s)) (by simp [hd]) (by simp [hc]) rfl
  have haddr := step_rxAddr (i := i) (s := goto .rxAddr (busStart (goto .rxStart (crcInit s))))
    (by simp [hd]) (by simp [hc]) rfl
  have hread := step_rxLenRd (i := i) (s := lengthAwaited s) (by simp [lengthAwaited, hd]) (by simp [lengthAwaited, hc]) rfl
  have hfeed := step_rxLenUpd (i := i)
    (s := goto .rxLenUpd (setFrmLength (nextByte (lengthAwaited s)) (busRead .ack (lengthAwaited s))))
    (by simp [lengthAwaited, hd]) (by simp [lengthAwaited, hc]) rfl
  refine ⟨(busRead .ack (lengthAwaited s)).draws, ?_⟩
  rw [run_step hinit, run_step hstart, run_step haddr]
  refine (run_step hread).trans ((run_step hfeed).trans (congrArg Host.Outcome.next (State.ext_iff.2 ?_)))
  generalize hlen : nextByte (lengthAwaited s) = len
  simp [payloadReceived, hlen, payloadLen, storeBytes, readAndFeed, engUpdate]
  simp [lengthAwaited, openedBy, engInit]

/-- One payload byte is read, stored, and fed to the engine. -/
theorem run_payloadReceived_round (hlt : bs.length < payloadCount len) (hroom : bs.length < s.cfg.rxbufSize) :
    ∃ b d', rest.take 1 <+: [b] ∧ Host.Core.run Sys2Proof.core 2 (payloadReceived s len bs rest d) =
      .next (payloadReceived s len (bs ++ [b]) rest.tail d') := by
  obtain ⟨u, hu⟩ : ∃ u, u = payloadReceived s len bs rest d := ⟨_, rfl⟩
  have hcount := payloadCount_le len
  have hidx : u.idx.toNat = bs.length := by simp [hu, payloadReceived]; omega
  have hlen : payloadLen u = payloadCount len := by simp [hu, payloadReceived, payloadLen]
  have hcfg : u.cfg = s.cfg := by simp [hu, payloadReceived]
  have hdu : decode u.cmd = .ok i := by simpa [hu, payloadReceived] using hd
  have hcu : u.callsLeft = none := by simpa [hu, payloadReceived] using hc
  have hread : step u = .next (payloadStored u) :=
    step_rxPayRd hdu hcu (by simp [hu, payloadReceived, hlt]) (by rw [hidx, hcfg]; exact hroom)
  have hfeed := step_rxPayUpd (i := i) (s := payloadStored u) (by simp [payloadStored, hdu]) (by simp [payloadStored, hcu])
    rfl (by simp [payloadStored, hidx, hcfg, hroom])
  have hbyte : readByte .rxbuf u.idx.toNat (payloadStored u) = nextByte u := by simp [payloadStored, readByte, buffer]
  have hlen' : payloadLen (payloadStored u) = payloadCount len := by simpa [payloadStored, payloadLen] using hlen
  have hidx' : (payloadStored u).idx = u.idx := by simp [payloadStored]
  rw [hidx', hbyte, hlen', hidx] at hfeed
  refine ⟨nextByte u, (busRead .ack u).draws, by simpa [hu, payloadReceived] using take_one_prefix_nextByte u, ?_⟩
  rw [← hu]
  refine (run_step hread).trans ((run_step hfeed).trans (congrArg Host.Outcome.next (State.ext_iff.2 ?_)))
  have hnext : u.idx + 1#8 = BitVec.ofNat 8 (bs.length + 1) := by
    apply BitVec.eq_of_toNat_eq
    simp [hidx]
  simp [payloadReceived, payloadStored, hidx, hnext, storeBytes_concat, readAndFeed_concat]
  simp [hu, payloadReceived, engUpdate]

/-- The payload loop reads the bytes still missing. -/
theorem run_payloadReceived_loop {n : Nat} (hn : bs.length + n = payloadCount len)
    (hroom : payloadCount len ≤ s.cfg.rxbufSize) :
    ∃ more d', more.length = n ∧ rest.take n <+: more ∧
      Host.Core.run Sys2Proof.core (2 * n) (payloadReceived s len bs rest d) =
        .next (payloadReceived s len (bs ++ more) (rest.drop n) d') := by
  induction n generalizing bs rest d with
  | zero => exact ⟨[], d, rfl, by simp, by simp⟩
  | succ n ih =>
    obtain ⟨b, d1, hb, hround⟩ := run_payloadReceived_round (bs := bs) (rest := rest) (d := d) hd hc
      (len := len) (by omega) (by omega)
    obtain ⟨more, d2, hlen, hmore, hloop⟩ := ih (bs := bs ++ [b]) (rest := rest.tail) (d := d1) (by simp; omega)
    refine ⟨b :: more, d2, by simp [hlen], ?_, ?_⟩
    · rw [Nat.add_comm n 1]
      exact take_add_prefix (xs := [b]) rfl hb (by rwa [List.drop_one])
    · rw [show 2 * (n + 1) = 2 + 2 * n by omega, run_append hround hloop]
      simp

/-- The two trailing bytes, the stop condition and the judgement. -/
theorem run_frameReceived (hlen : bs.length = payloadCount len) :
    ∃ lo hi d', rest.take 2 <+: [lo, hi] ∧ Host.Core.run Sys2Proof.core 4 (payloadReceived s len bs rest d) =
      .next (frameReceived s len bs lo hi (rest.drop 2) d') := by
  obtain ⟨u, hu⟩ : ∃ u, u = payloadReceived s len bs rest d := ⟨_, rfl⟩
  have hdu : decode u.cmd = .ok i := by simpa [hu, payloadReceived] using hd
  have hcu : u.callsLeft = none := by simpa [hu, payloadReceived] using hc
  have hlo := step_rxCkLo hdu hcu (by simp [hu, payloadReceived, hlen])
  obtain ⟨v, hv⟩ : ∃ v, v = goto .rxCkHi (setFrmChecksumLo (nextByte u) (busRead .ack u)) := ⟨_, rfl⟩
  rw [← hv] at hlo
  have hdv : decode v.cmd = .ok i := by simpa [hv] using hdu
  have hcv : v.callsLeft = none := by simp [hv, hcu]
  have hhi := step_rxCkHi hdv hcv (by simp [hv])
  have hstop := step_rxStop (i := i) (s := goto .rxStop (setFrmChecksumHi (nextByte v) (busRead .nack v)))
    (by simp [hdv]) (by simp [hcv]) rfl
  have hres := step_rxCrcRes (i := i)
    (s := goto .rxCrcRes (busStop (goto .rxStop (setFrmChecksumHi (nextByte v) (busRead .nack v)))))
    (by simp [hdv]) (by simp [hcv]) rfl
  refine ⟨nextByte u, nextByte v, (busRead .nack v).draws, ?_, ?_⟩
  · refine take_add_prefix (m := 1) (n := 1) (xs := [nextByte u]) rfl ?_ ?_
    · simpa [hu, payloadReceived] using take_one_prefix_nextByte u
    · simpa [hv, hu, payloadReceived] using take_one_prefix_nextByte v
  · rw [← hu]
    refine (run_step hlo).trans ((run_step hhi).trans ((run_step hstop).trans ((run_step hres).trans
      (congrArg Host.Outcome.next (State.ext_iff.2 ?_)))))
    have hdrop : rest.tail.tail = rest.drop 2 := by rw [← List.drop_one, ← List.drop_one, List.drop_drop]
    generalize hhi : nextByte v = hi
    simp [frameReceived, hhi, crcValue, frameValid, receiveEvents]
    generalize hlo : nextByte u = lo
    simp [hv, hlo]
    simp [hu, payloadReceived, crcOf_eq, hdrop]

/-- The whole run of a RECEIVE, whatever the bus returns, where the payload has room. -/
theorem run_receive (hp : s.phase = .rxCrcInit)
    (hroom : ∀ len, s.bytes.take 1 <+: [len] → payloadCount len ≤ s.cfg.rxbufSize) :
    ∃ len payload lo hi d, payload.length = payloadCount len ∧
      s.bytes.take (payload.length + 3) <+: len :: (payload ++ [lo, hi]) ∧
      Host.Core.run Sys2Proof.core (9 + 2 * payload.length) s =
        .next (frameReceived s len payload lo hi (s.bytes.drop (payload.length + 3)) d) := by
  obtain ⟨d1, hopen⟩ := run_to_payload hd hc hp
  have hlen : s.bytes.take 1 <+: [nextByte (lengthAwaited s)] := by
    simpa [lengthAwaited] using take_one_prefix_nextByte (lengthAwaited s)
  generalize nextByte (lengthAwaited s) = len at hopen hlen
  obtain ⟨payload, d2, hcount, hpayload, hloop⟩ := run_payloadReceived_loop (bs := []) (rest := s.bytes.tail) (d := d1)
    hd hc (Nat.zero_add _) (hroom len hlen)
  obtain ⟨lo, hi, d3, htrail, hclose⟩ := run_frameReceived (bs := payload) (rest := s.bytes.tail.drop payload.length)
    (d := d2) hd hc hcount
  refine ⟨len, payload, lo, hi, d3, hcount, ?_, ?_⟩
  · rw [show payload.length + 3 = 1 + (payload.length + 2) by omega]
    refine take_add_prefix (xs := [len]) rfl hlen (take_add_prefix rfl ?_ ?_)
    · rwa [List.drop_one, hcount]
    · rwa [List.drop_one]
  · rw [hcount, show 9 + 2 * payloadCount len = 5 + (2 * payloadCount len + 4) by omega]
    refine run_append hopen (run_append hloop ?_)
    have hdrop : s.bytes.drop (payload.length + 3) = (s.bytes.tail.drop payload.length).drop 2 := by
      rw [← List.drop_one, List.drop_drop, List.drop_drop]
      congr 1
      omega
    rw [← hcount, hdrop]
    exact hclose

/-- The run of a RECEIVE that the script answers with a frame. -/
theorem run_receiveFrame {payload : List Byte} {lo hi : Byte} (hp : s.phase = .rxCrcInit)
    (hcount : payload.length = payloadCount len) (hroom : payload.length ≤ s.cfg.rxbufSize)
    (hbytes : s.bytes = len :: (payload ++ lo :: hi :: rest)) :
    ∃ d, Host.Core.run Sys2Proof.core (9 + 2 * payload.length) s = .next (frameReceived s len payload lo hi rest d) := by
  obtain ⟨len', payload', lo', hi', d, hcount', hprefix, hrun⟩ := run_receive hd hc hp fun l hl => by
    rw [hbytes] at hl
    simp at hl
    rw [← hl, ← hcount]
    exact hroom
  rw [hbytes] at hprefix hrun
  obtain rfl : len = len' := (List.cons_prefix_cons.1 hprefix).1
  have hsame : payload'.length = payload.length := by rw [hcount, hcount']
  have hlen : payload.length + 3 = (len :: (payload ++ [lo, hi])).length := by simp
  have hframe : len :: (payload ++ lo :: hi :: rest) = (len :: (payload ++ [lo, hi])) ++ rest := by simp
  rw [hsame, hframe, hlen, List.take_left] at hprefix
  rw [hsame, hframe, hlen, List.drop_left] at hrun
  have heq := hprefix.eq_of_length (by simp [hsame])
  simp at heq
  obtain ⟨rfl, htrail⟩ := List.append_inj heq hsame.symm
  simp at htrail
  obtain ⟨rfl, rfl⟩ := htrail
  exact ⟨d, hrun⟩

end

theorem joinBytes_eq_ofNat (hi lo : Byte) : joinBytes hi lo = BitVec.ofNat 16 (256 * hi.toNat + lo.toNat) := by
  apply BitVec.eq_of_toNat_eq
  rw [toNat_joinBytes, BitVec.toNat_ofNat]
  omega

/-- Settles O28. -/
theorem receiveReadsTheFrame : Obligations.ReceiveReadsTheFrame := by
  intro s i hroom hp hd hc
  obtain ⟨len, payload, lo, hi, d, hcount, hprefix, hrun⟩ :=
    run_receive hd hc hp fun l _ => (payloadCount_le l).trans hroom
  refine ⟨_, _, len, payload, lo, hi, _, hrun, hcount, hprefix, rfl, readKinds_receiveEvents .., fun j => ?_, ?_⟩
  · simp [frameReceived, memRead_storeBytes]
  · simp only [frameReceived, joinBytes_eq_ofNat]

end Sys2Proof.Machine
end

section
/-! SUPPORT. What the checksum says of a received frame (40_checksum_sequencer.md section 5): a command frame read back is
valid, and a frame with one bit flipped is not. -/

namespace Sys2Proof.Machine

@[simp] theorem hiByte_joinBytes (hi lo : Byte) : hiByte (joinBytes hi lo) = hi := by
  rw [hiByte_eq_ofNat_div, toNat_joinBytes]
  apply BitVec.eq_of_toNat_eq
  rw [BitVec.toNat_ofNat]
  omega

@[simp] theorem joinBytes_hiByte_loByte (w : Word) : joinBytes (hiByte w) (loByte w) = w := by
  apply BitVec.eq_of_toNat_eq
  rw [toNat_joinBytes, hiByte_eq_ofNat_div, loByte_eq_ofNat_mod, BitVec.toNat_ofNat, BitVec.toNat_ofNat]
  omega

/-- Settles O33: the frame body is the count followed by as many bytes as the count says. -/
theorem loopbackIsValid : Obligations.LoopbackIsValid := by
  intro s i rest hp hd hc hcount hroom hck hbytes
  obtain ⟨payload, hbody⟩ : ∃ payload, frameBody s = s.pktCount :: payload := ⟨_, rfl⟩
  have hlen : payload.length = 4 + s.txfill.toNat := by
    have := frameBody_length s
    rw [hbody, List.length_cons] at this
    omega
  obtain ⟨d, hrun⟩ := run_receiveFrame (payload := payload) (lo := loByte s.pktChecksum) (hi := hiByte s.pktChecksum)
    (rest := rest) hd hc hp (by rw [hlen, payloadCount, hcount, frameOverhead]; omega) (by omega) (by simp [hbytes, hbody])
  have hcalc : crcOf s.cfg (s.pktCount :: payload) = s.pktChecksum := by rw [← hbody, hck]
  exact ⟨_, _, hrun, rfl, rfl, rfl, rfl, hcalc, joinBytes_hiByte_loByte _, by simp [frameReceived, hcalc]⟩

/-! ### One flipped bit -/

theorem xor_bit_ne (x : Byte) {k : Nat} (hk : k < 8) : x ^^^ (1#8 <<< k) ≠ x := by
  have hbit : ∀ j : Fin 8, 1#8 <<< j.val ≠ 0#8 := by decide
  intro h
  exact hbit ⟨k, hk⟩ (by simpa using congrArg (x ^^^ ·) h)

theorem flipBit_cons (x : Byte) (bs : List Byte) (j k : Nat) : flipBit (x :: bs) (j + 1) k = x :: flipBit bs j k := rfl

theorem flipBit_length (bs : List Byte) (j k : Nat) : (flipBit bs j k).length = bs.length := by simp [flipBit]

theorem flipBit_append_left {xs : List Byte} (ys : List Byte) {j : Nat} (k : Nat) (hj : j < xs.length) :
    flipBit (xs ++ ys) j k = flipBit xs j k ++ ys := by
  induction xs generalizing j with
  | nil => exact absurd hj (Nat.not_lt_zero j)
  | cons x xs ih =>
    cases j with
    | zero => rfl
    | succ j => exact congrArg (List.cons x) (ih (Nat.lt_of_succ_lt_succ hj))

theorem flipBit_append_right (xs ys : List Byte) (j k : Nat) :
    flipBit (xs ++ ys) (xs.length + j) k = xs ++ flipBit ys j k := by
  induction xs with
  | nil => simp
  | cons x xs ih =>
    rw [List.length_cons, Nat.add_right_comm]
    exact congrArg (List.cons x) ih

/-- A frame with one bit flipped after its length is a frame of that length: it has another payload, whose checksum differs
under `SINGLE_BIT_DETECT`, or another checksum (40_checksum_sequencer.md R97). -/
theorem flipBit_frame {c : Params} {len lo hi : Byte} {payload : List Byte} {j b : Nat}
    (hdetect : j ≤ payload.length → SingleBitDetect c) (hj : 0 < j) (hlt : j < payload.length + 3) (hb : b < 8) :
    ∃ payload' lo' hi', flipBit (len :: (payload ++ [lo, hi])) j b = len :: (payload' ++ [lo', hi']) ∧
      payload'.length = payload.length ∧
      (j ≤ payload.length ∧ crcOf c (len :: payload') ≠ crcOf c (len :: payload) ∧ joinBytes hi' lo' = joinBytes hi lo ∨
        payload.length < j ∧ payload' = payload ∧ joinBytes hi' lo' ≠ joinBytes hi lo) := by
  obtain ⟨j, rfl⟩ := Nat.exists_eq_succ_of_ne_zero hj.ne'
  rw [Nat.succ_eq_add_one, flipBit_cons]
  by_cases hpay : j < payload.length
  · refine ⟨flipBit payload j b, lo, hi, by rw [flipBit_append_left _ _ hpay], flipBit_length .., .inl ⟨hpay, ?_, rfl⟩⟩
    exact hdetect hpay (len :: payload) (j + 1) b (Nat.succ_pos j) (by simpa using hpay) hb
  · obtain ⟨n, rfl⟩ := Nat.exists_eq_add_of_le (Nat.le_of_not_lt hpay)
    rw [flipBit_append_right]
    obtain rfl | rfl : n = 0 ∨ n = 1 := by omega
    · refine ⟨payload, lo ^^^ (1#8 <<< b), hi, rfl, rfl, .inr ⟨by omega, rfl, fun h => xor_bit_ne lo hb ?_⟩⟩
      simpa using congrArg loByte h
    · refine ⟨payload, lo, hi ^^^ (1#8 <<< b), rfl, rfl, .inr ⟨by omega, rfl, fun h => xor_bit_ne hi hb ?_⟩⟩
      simpa using congrArg hiByte h

/-- Settles O34: both frames are received in the same number of steps, and one side of the comparison differs. -/
theorem singleBitFlipInvalidatesTheFrame : Obligations.SingleBitFlipInvalidatesTheFrame := by
  intro s i len lo hi payload rest j b hdetect hp hd hc hcount hroom hvalid hbytes hj hlt hb
  obtain ⟨payload', lo', hi', hflip, hlen, hdiff⟩ := flipBit_frame (len := len) (lo := lo) (hi := hi) hdetect hj hlt hb
  obtain ⟨d, hrun⟩ := run_receiveFrame (lo := lo) (hi := hi) (rest := rest) hd hc hp hcount hroom (by simp [hbytes])
  obtain ⟨d', hrun'⟩ := run_receiveFrame (i := i)
    (s := { s with bytes := flipBit (len :: (payload ++ [lo, hi])) j b ++ rest })
    (len := len) (payload := payload') (lo := lo') (hi := hi') (rest := rest) hd hc hp (hlen.trans hcount)
    (hlen ▸ hroom) (by simp [hflip])
  rw [hlen] at hrun'
  refine ⟨_, _, _, hrun, hrun', rfl, decide_eq_true hvalid, rfl, ?_⟩
  rcases hdiff with ⟨hin, hcrc, hck⟩ | ⟨hout, rfl, hck⟩
  · refine ⟨?_, fun _ => ⟨hcrc, hck⟩, fun h => absurd hin (Nat.not_le_of_lt h)⟩
    exact decide_eq_false fun h => hcrc (h.trans (hck.trans hvalid.symm))
  · refine ⟨?_, fun h => absurd h (Nat.not_le_of_lt hout), fun _ => ⟨rfl, hck⟩⟩
    exact decide_eq_false fun h => hck (h.symm.trans hvalid)

end Sys2Proof.Machine
end

section
/-! SUPPORT. Whole operations (44_operations.md): from the issue of the command word to TRANSMIT, and from the outcome to
`IDLE`; then the operation whose TRANSMIT aborts. -/

namespace Sys2Proof.Machine

/-- The operation `i` issued from `s`, accepted, and its packet built; `words` are left of the host's program. -/
def commandBuilt (i : Instr) (words : List Word) (s : State) : State :=
  { s with
    program := words
    cmd := encode i
    busy := true
    phase := .txCrcInit
    pktOpcode := opcodeOf s.cfg i
    pktParam1 := param1Of s.cfg i
    pktParam2 := param2Of s.cfg i
    txfill := fillerOf i
    pktCount := s.cfg.overhead + fillerOf i
    written := { s.written with packet := true } }

/-- The operation completed from `s`, an outcome before INITMAP standing in `RES` (44_operations.md R137, R139). -/
def completed (i : Instr) (s : State) : State :=
  { s with
    phase := .idle
    busy := false
    resKind := (finalOutcome s.cfg i (s.resKind, s.resCode)).1
    resCode := (finalOutcome s.cfg i (s.resKind, s.resCode)).2 }

section
variable {i : Instr} {s : State}

/-- Issue: the step runs the operation, which accepts its word … -/
theorem step_issue {words : List Word} (hwf : i.wf = true) (hp : s.phase = .idle) (hb : s.busy = false)
    (hw : s.program = encode i :: words) :
    step s = .next (accept (encode i) (setProgram words s)) ∧
      exec i (setProgram words s) = .next (accept (encode i) (setProgram words s)) := by
  have hexec := exec_idle_accepts (s := setProgram words s) hwf hp hb
  exact ⟨(step_idle_legal hp hb hw (decodeEncodeAgree i hwf)).trans hexec, hexec⟩

/-- … and BUILD. -/
theorem run_build {words : List Word} (hwf : i.wf = true) :
    Host.Core.run Sys2Proof.core 1 (accept (encode i) (setProgram words s)) = .next (commandBuilt i words s) := by
  have hrow := step_build (i := i) (s := accept (encode i) (setProgram words s))
    (by simpa using decodeEncodeAgree i hwf) rfl
  refine (run_step hrow).trans (congrArg Host.Outcome.next (State.ext_iff.2 ?_))
  rw [buildOf_eq]
  simp [commandBuilt, buildPacket]

/-- INIT maps its outcome before it completes, every other operation completes at once. -/
theorem run_completion (hd : decode s.cmd = .ok i) (hp : s.phase = afterOf i) :
    ∃ k, Host.Core.run Sys2Proof.core k s = .next (completed i s) := by
  have hdone : ∀ {u : State}, decode u.cmd = .ok i → u.phase = .done →
      Host.Core.run Sys2Proof.core 1 u = .next (complete u) :=
    fun hu hup => run_step (step_done hu hup)
  cases i with
  | init =>
    refine ⟨2, ?_⟩
    have hmap := step_initmap hd hp
    rcases initMap_cases (s := s) with ⟨hk, hc, he⟩ | ⟨hne, he⟩ <;> rw [he] at hmap
    · have hend := hdone (u := goto .done (setRes .success s.cfg.stSuccess s)) hd rfl
      refine (run_step hmap).trans (hend.trans (congrArg Host.Outcome.next (State.ext_iff.2 ?_)))
      simp [completed, finalOutcome, hk, hc]
    · have hend := hdone (u := goto .done (setRes .initFail s.cfg.stInitFail s)) hd rfl
      refine (run_step hmap).trans (hend.trans (congrArg Host.Outcome.next (State.ext_iff.2 ?_)))
      simp [completed, finalOutcome, hne]
  | _ => exact ⟨1, hdone hd hp⟩

end

/-- Settles O32: the operation is built, its TRANSMIT aborts, and the outcome is completed. -/
theorem abortedOperationLeavesResultsUnchanged : Obligations.AbortedOperationLeavesResultsUnchanged := by
  intro i s words acks k hwf hp hb hw hc hk ha
  obtain ⟨hstep, hexec⟩ := step_issue hwf hp hb hw
  have hd := decodeEncodeAgree i hwf
  obtain ⟨n, u, new, htransmit, habort⟩ := run_transmitFails (s := commandBuilt i words s) (i := i) hd hc rfl hk ha
  have hu := habort.state
  obtain ⟨m, hdone⟩ := run_completion (i := i) (s := u) (by rw [hu]; exact hd) (by rw [hu])
  refine ⟨_, completed i u, _, new, hstep, hexec, run_append (run_build hwf) (run_append htransmit hdone), ?_⟩
  have htransport := habort.transport
  have hdelay := habort.noDelay
  generalize u.idx = idx', u.eng = eng', u.draws = draws' at hu
  clear habort htransmit hdone
  subst hu
  exact ⟨rfl, rfl, rfl, rfl, rfl, rfl, rfl, rfl, htransport, hdelay, rfl, rfl, rfl, rfl, rfl, rfl, rfl, rfl, rfl, rfl, rfl⟩

end Sys2Proof.Machine
end

section
/-! SUPPORT. The operation whose frame is answered (44_operations.md sections 2 to 4): what CLASSIFY makes of a received
payload, and the run from issue to `IDLE`. -/

namespace Sys2Proof.Machine

/-! ### CLASSIFY of a received payload -/

/-- `RXBUF` holds the payload of the frame that `FRM.LENGTH` declares (43_frame_receiver.md R124). -/
structure HoldsPayload (s : State) (payload : List Byte) : Prop where
  length : payload.length = payloadCount s.frmLength
  bytes : ∀ j < payload.length, memRead s.rxbuf j = payload[j]?

theorem HoldsPayload.readByte {s : State} {payload : List Byte} (h : HoldsPayload s payload) {j : Nat}
    (hj : j < payload.length) : readByte .rxbuf j s = payload[j] :=
  readRxbuf ((h.bytes j hj).trans (List.getElem?_eq_getElem hj))

/-- The state CLASSIFY makes, before the phase is chosen (44_operations.md R132). -/
def classified (i : Instr) (s : State) : State := classifyFrame (expectedOf s.cfg i) (deliverOf i) s

section
variable (i : Instr) (s : State)

@[simp] theorem classified_cmd : (classified i s).cmd = s.cmd := by simp [classified]
@[simp] theorem classified_program : (classified i s).program = s.program := by simp [classified]
@[simp] theorem classified_acks : (classified i s).acks = s.acks := by simp [classified]
@[simp] theorem classified_bytes : (classified i s).bytes = s.bytes := by simp [classified]
@[simp] theorem classified_txn : (classified i s).txn = s.txn := by simp [classified]
@[simp] theorem classified_cfg : (classified i s).cfg = s.cfg := by simp [classified]
@[simp] theorem classified_trace : (classified i s).trace = s.trace := by simp [classified]
@[simp] theorem classified_pktChecksum : (classified i s).pktChecksum = s.pktChecksum := by simp [classified]
@[simp] theorem classified_frmLength : (classified i s).frmLength = s.frmLength := by simp [classified]
@[simp] theorem classified_frmChecksum : (classified i s).frmChecksum = s.frmChecksum := by simp [classified]
@[simp] theorem classified_calcReg : (classified i s).calcReg = s.calcReg := by simp [classified]
@[simp] theorem classified_frmValid : (classified i s).frmValid = s.frmValid := by simp [classified]
@[simp] theorem classified_rxbuf : (classified i s).rxbuf = s.rxbuf := by simp [classified]

end

/-- CLASSIFY succeeds by its second arm, and otherwise writes no data register. -/
theorem classified_cases (i : Instr) (s : State) :
    (expectedOf s.cfg i = some s.frmLength ∧ classified i s = setRes .success s.cfg.stSuccess (deliverOf i s)) ∨
      ((classified i s).resKind ≠ .success ∧ SameData s (classified i s)) := by
  unfold classified
  rcases classifyFrame_res (expectedOf s.cfg i) (deliverOf i) s with ⟨-, -, e⟩ | ⟨-, -, he, e⟩ | ⟨-, e⟩ <;> rw [e]
  · right; exact ⟨nofun, by constructor <;> rfl⟩
  · exact .inl ⟨he, rfl⟩
  · right; exact ⟨nofun, by constructor <;> rfl⟩

section
variable {i : Instr} {s : State} {payload : List Byte} (hfit : FramesFit s.cfg) (hpay : HoldsPayload s payload)
include hfit hpay

/-- A standard frame carries a status byte. -/
theorem readByte_of_standard (hl : s.frmLength = s.cfg.frameStd) : readByte .rxbuf 0 s = payload.headD 0#8 := by
  obtain ⟨hstd, -, -, -⟩ := hfit
  have hpos : 0 < payload.length := by
    rw [hpay.length, hl, payloadCount, frameOverhead]
    omega
  rw [hpay.readByte hpos]
  cases payload with
  | nil => simp at hpos
  | cons b bs => rfl

/-- CLASSIFY's outcome is that of 44_operations.md R132. -/
theorem classified_outcome :
    ((classified i s).resKind, (classified i s).resCode) = frameOutcome s.cfg i s.frmValid s.frmLength payload := by
  unfold classified
  rcases classifyFrame_res (expectedOf s.cfg i) (deliverOf i) s with ⟨hv, hl, e⟩ | ⟨hv, hl, he, e⟩ | ⟨hne, e⟩
  · rw [e, frameOutcome, if_pos ⟨hv, hl⟩, ← readByte_of_standard hfit hpay hl]
    rfl
  · rw [e, frameOutcome, if_neg fun h => hl h.2, if_pos ⟨hv, he⟩]
    rfl
  · have h1 : ¬(s.frmValid = true ∧ s.frmLength = s.cfg.frameStd) := by
      rintro ⟨hv, hl⟩
      rcases hne with hne | ⟨hne, -⟩
      · simp [hv] at hne
      · exact hne hl
    have h2 : ¬(s.frmValid = true ∧ expectedOf s.cfg i = some s.frmLength) := by
      rintro ⟨hv, he⟩
      rcases hne with hne | ⟨-, hne⟩
      · simp [hv] at hne
      · exact hne he
    rw [e, frameOutcome, if_neg h1, if_neg h2]
    rfl

/-- INFO's success arm leaves the first four payload bytes in `INFO.*`. -/
theorem classified_info :
    if i = .info ∧ (classified i s).resKind = .success
    then [(classified i s).infoRfu, (classified i s).infoDevid, (classified i s).infoSilid, (classified i s).infoRev] =
      payload.take 4
    else (classified i s).infoRfu = s.infoRfu ∧ (classified i s).infoDevid = s.infoDevid ∧
      (classified i s).infoSilid = s.infoSilid ∧ (classified i s).infoRev = s.infoRev := by
  obtain ⟨-, hinfo, -, -⟩ := hfit
  rcases classified_cases i s with ⟨he, e⟩ | ⟨hk, hsame⟩
  · by_cases hi : i = .info
    · subst hi
      have hl : s.cfg.frameInfo = s.frmLength := Option.some.inj he
      have hlen : 4 ≤ payload.length := by
        rw [hpay.length, payloadCount, ← hl, frameOverhead]
        omega
      rw [if_pos ⟨rfl, by rw [e]; rfl⟩, e]
      match payload, hlen with
      | b0 :: b1 :: b2 :: b3 :: rest, _ =>
        simp [deliverOf, deliverInfo, hpay.readByte]
    · obtain ⟨hown, -, -⟩ := deliverOf_own i s
      obtain ⟨h1, h2, h3, h4, -⟩ := hown hi
      rw [if_neg fun h => hi h.1, e]
      exact ⟨h1, h2, h3, h4⟩
  · rw [if_neg fun h => hk h.2]
    exact ⟨hsame.infoRfu, hsame.infoDevid, hsame.infoSilid, hsame.infoRev⟩

/-- RANDOM's success arm leaves the first `RANDOM_LEN` payload bytes in `RND`. -/
theorem classified_rnd :
    if (∃ n, i = .random n) ∧ (classified i s).resKind = .success
    then ∀ j < s.cfg.randomLen, memRead (classified i s).rnd j = payload[j]?
    else (classified i s).rnd = s.rnd := by
  obtain ⟨-, -, -, hrandom⟩ := hfit
  rcases classified_cases i s with ⟨he, e⟩ | ⟨hk, hsame⟩
  · by_cases hi : ∃ n, i = .random n
    · obtain ⟨n, rfl⟩ := hi
      have hl : s.cfg.frameRandom = s.frmLength := Option.some.inj he
      have hlen : s.cfg.randomLen ≤ payload.length := by
        rw [hpay.length, payloadCount, ← hl, frameOverhead]
        omega
      rw [if_pos ⟨⟨n, rfl⟩, by rw [e]; rfl⟩, e]
      intro j hj
      have hlisted : ∀ k < s.cfg.randomLen, (memRead s.rxbuf k).isSome = true := fun k hk => by
        have hk : k < payload.length := Nat.lt_of_lt_of_le hk hlen
        simp [hpay.bytes k hk, hk]
      have hmem := memRead_copyPayload_listed (dst := .rnd) (by decide) hlisted j
      rw [if_pos hj, hpay.bytes j (by omega)] at hmem
      rw [setRes_rnd, deliverOf, deliverRandom]
      exact hmem
    · obtain ⟨-, hown, -⟩ := deliverOf_own i s
      rw [if_neg fun h => hi h.1, e]
      exact hown fun n hn => hi ⟨n, hn⟩
  · rw [if_neg fun h => hk h.2]
    exact hsame.rnd

/-- SERIAL's success arm leaves the 16 payload bytes in `SER`. -/
theorem classified_ser :
    if i = .serial ∧ (classified i s).resKind = .success
    then ∀ j < 16, memRead (classified i s).ser j = payload[j]?
    else (classified i s).ser = s.ser := by
  obtain ⟨-, -, hserial, -⟩ := hfit
  rcases classified_cases i s with ⟨he, e⟩ | ⟨hk, hsame⟩
  · by_cases hi : i = .serial
    · subst hi
      have hl : s.cfg.frameSerial = s.frmLength := Option.some.inj he
      have hlen : 16 ≤ payload.length := by
        rw [hpay.length, payloadCount, ← hl, frameOverhead]
        omega
      rw [if_pos ⟨rfl, by rw [e]; rfl⟩, e]
      intro j hj
      have hlisted : ∀ k < serialLen, (memRead s.rxbuf k).isSome = true := fun k hk => by
        have hk : k < payload.length := Nat.lt_of_lt_of_le hk hlen
        simp [hpay.bytes k hk, hk]
      have hmem := memRead_copyPayload_listed (dst := .ser) (by decide) hlisted j
      rw [if_pos (show j < serialLen from hj), hpay.bytes j (by omega)] at hmem
      rw [setRes_ser, deliverOf, deliverSerial]
      exact hmem
    · obtain ⟨-, -, hown⟩ := deliverOf_own i s
      rw [if_neg fun h => hi h.1, e]
      exact hown hi
  · rw [if_neg fun h => hk h.2]
    exact hsame.ser

end

/-! ### The whole run -/

theorem finalOutcome_eq {c : Params} {i : Instr} (h : i ≠ .init) (r : ResKind × Byte) : finalOutcome c i r = r := by
  cases i with
  | init => exact absurd rfl h
  | _ => rfl

/-- INIT alone maps its outcome: every other operation ends in SUCCESS exactly when CLASSIFY gave it. -/
theorem completed_success_iff {i : Instr} {p : Prop} (h : p → i ≠ .init) (s : State) :
    (p ∧ (completed i (goto (afterOf i) s)).resKind = .success) ↔ (p ∧ s.resKind = .success) :=
  and_congr_right fun hp => by rw [completed, finalOutcome_eq (h hp), goto_resKind]

/-- The state in which RECEIVE begins: the command sent from `s`, and the settle time waited. -/
def answerAwaited (i : Instr) (words : List Word) (acks : List BusResult) (s : State) : State :=
  goto .rxCrcInit (delayMs (settleOf s.cfg i) (transmitted (commandBuilt i words s) acks))

/-- The state at the end of RECEIVE. -/
def answered (i : Instr) (words : List Word) (acks : List BusResult) (len lo hi : Byte) (payload bytes : List Byte) (d : Nat)
    (s : State) : State :=
  frameReceived (answerAwaited i words acks s) len payload lo hi bytes d

theorem answered_trace (i : Instr) (words : List Word) (acks : List BusResult) (len lo hi : Byte) (payload bytes : List Byte)
    (d : Nat) (s : State) : (answered i words acks len lo hi payload bytes d s).trace = s.trace ++
      (transmitEvents s.cfg (commandBody s.cfg i) (crcOf s.cfg (commandBody s.cfg i)) ++
        .delayMs (settleOf s.cfg i) :: receiveEvents s.cfg len payload lo hi (crcOf s.cfg (len :: payload))) := by
  have hparts : (answered i words acks len lo hi payload bytes d s).trace = s.trace ++
      transmitEvents s.cfg (commandBody s.cfg i) (crcOf s.cfg (commandBody s.cfg i)) ++ [.delayMs (settleOf s.cfg i)] ++
      receiveEvents s.cfg len payload lo hi (crcOf s.cfg (len :: payload)) := rfl
  rw [hparts]
  simp

section
variable {i : Instr} {s : State} {words : List Word} {acks : List BusResult} {len lo hi : Byte} {payload bytes : List Byte}

theorem run_to_answerAwaited (hwf : i.wf = true) (hc : s.callsLeft = none)
    (ha : s.acks = List.replicate (8 + (fillerOf i).toNat) .ok ++ acks) :
    ∃ k, Host.Core.run Sys2Proof.core k (accept (encode i) (setProgram words s)) = .next (answerAwaited i words acks s) := by
  have hd := decodeEncodeAgree i hwf
  have hsent := run_transmit (s := commandBuilt i words s) (i := i) hd hc rfl ha
  have hwait := step_wait (i := i) (s := transmitted (commandBuilt i words s) acks) hd hc rfl
  exact ⟨_, run_append (run_build hwf) (run_snoc hsent hwait)⟩

theorem run_to_completed (hwf : i.wf = true) (hc : s.callsLeft = none)
    (ha : s.acks = List.replicate (8 + (fillerOf i).toNat) .ok ++ acks) (hcount : payload.length = payloadCount len)
    (hroom : payload.length ≤ s.cfg.rxbufSize) (hbytes : s.bytes = len :: (payload ++ lo :: hi :: bytes)) :
    ∃ k d, Host.Core.run Sys2Proof.core k (accept (encode i) (setProgram words s)) =
      .next (completed i (goto (afterOf i) (classified i (answered i words acks len lo hi payload bytes d s)))) := by
  have hd := decodeEncodeAgree i hwf
  obtain ⟨k, hsent⟩ := run_to_answerAwaited (words := words) hwf hc ha
  obtain ⟨d, hreceived⟩ := run_receiveFrame (i := i) (s := answerAwaited i words acks s) hd hc rfl hcount hroom hbytes
  have hclassify := step_classify (i := i) (s := answered i words acks len lo hi payload bytes d s) hd rfl
  obtain ⟨m, hdone⟩ := run_completion (i := i)
    (s := goto (afterOf i) (classified i (answered i words acks len lo hi payload bytes d s)))
    (by rw [goto_cmd, classified_cmd]; exact hd) rfl
  exact ⟨_, d, run_append hsent (run_append (run_snoc hreceived hclassify) hdone)⟩

end

/-- Settles O31. -/
theorem operationReachesItsOutcome : Obligations.OperationReachesItsOutcome := by
  intro i s words acks len lo hi payload bytes hfit hwf hp hb hw hc ha hcount hroom hbytes
  obtain ⟨hstep, hexec⟩ := step_issue hwf hp hb hw
  obtain ⟨k, d, hrun⟩ := run_to_completed (words := words) hwf hc ha hcount hroom hbytes
  refine ⟨_, _, k, hstep, hexec, hrun, rfl, rfl, ?_⟩
  have hpay : HoldsPayload (answered i words acks len lo hi payload bytes d s) payload := by
    refine ⟨hcount, fun j hj => ?_⟩
    simp [answered, frameReceived, memRead_storeBytes, hj]
  have hfit' : FramesFit (answered i words acks len lo hi payload bytes d s).cfg := hfit
  have houtcome := classified_outcome (i := i) hfit' hpay
  have hinfo := classified_info (i := i) hfit' hpay
  have hrnd := classified_rnd (i := i) hfit' hpay
  have hser := classified_ser (i := i) hfit' hpay
  refine ⟨classified_cmd .., classified_program .., classified_acks .., classified_bytes .., classified_txn ..,
    classified_cfg .., (classified_trace ..).trans (answered_trace ..), ?outcome, classified_pktChecksum ..,
    classified_frmLength .., classified_frmChecksum .., classified_calcReg .., classified_frmValid .., ?rxbuf, ?info, ?rnd,
    ?ser⟩
  case outcome =>
    refine (show _ = finalOutcome _ i _ from rfl).trans ?_
    rw [goto_cfg, classified_cfg]
    exact congrArg (finalOutcome s.cfg i) houtcome
  case rxbuf =>
    intro j
    refine (congrArg (memRead · j) (classified_rxbuf ..)).trans ?_
    simp [answered, frameReceived, memRead_storeBytes]
    rfl
  case info => exact (if_congr (completed_success_iff (by rintro rfl; simp) _) rfl rfl).mpr hinfo
  case rnd => exact (if_congr (completed_success_iff (by rintro ⟨n, rfl⟩; simp) _) rfl rfl).mpr hrnd
  case ser => exact (if_congr (completed_success_iff (by rintro rfl; simp) _) rfl rfl).mpr hser

end Sys2Proof.Machine
end

section
/-! SUPPORT. Nothing is carried over between operations (44_operations.md R143): two machines in step, which agree on every
register that the running operation has written so far, stay in step. -/

namespace Sys2Proof.Machine

/-- How many of the registers that an operation writes one after the other (`Agree`) have been written when the phase begins.
The abort and the phases after CLASSIFY read none of them but `CMD`. -/
def level (p : Phase) : Nat :=
  match p with
  | .idle => 0
  | .build => 1
  | .txCrcInit | .txAbort | .initmap | .done => 2
  | .txStart | .txAddr | .txExec => 3
  | .txHdrUpd | .txHdrWr | .txFillUpd | .txFillWr | .txCrcRes => 4
  | .txCkLo | .txCkHi | .txStop | .wait | .rxCrcInit | .rxStart | .rxAddr | .rxLenRd => 5
  | .rxLenUpd | .rxPayRd | .rxPayUpd | .rxCkLo => 6
  | .rxCkHi => 7
  | .rxStop | .rxCrcRes => 8
  | .classify => 9

/-- How many payload bytes of the frame being received are in `RXBUF` when the phase begins. -/
def bytesStored (p : Phase) (s : State) : Nat :=
  match p with
  | .rxPayRd => s.idx.toNat
  | .rxPayUpd => s.idx.toNat + 1
  | .rxCkLo | .rxCkHi | .rxStop | .rxCrcRes | .classify => payloadLen s
  | _ => 0

/-- The phases from which the outcome is read, by INITMAP and by the host. -/
def outcomeKnown (p : Phase) : Bool :=
  match p with
  | .initmap | .done | .idle => true
  | _ => false

/-- Two states with the same phase, host program, configuration and oracle, the same values in the first `n` of the registers
an operation writes, and the same first `m` payload bytes. -/
structure Agree (n m : Nat) (s u : State) : Prop where
  phase : u.phase = s.phase
  busy : u.busy = s.busy
  cfg : u.cfg = s.cfg
  acks : u.acks = s.acks
  bytes : u.bytes = s.bytes
  callsLeft : u.callsLeft = s.callsLeft
  draws : u.draws = s.draws
  program : u.program = s.program
  cmd : 0 < n → u.cmd = s.cmd
  packet : 1 < n → u.pktCount = s.pktCount ∧ u.pktOpcode = s.pktOpcode ∧ u.pktParam1 = s.pktParam1 ∧
    u.pktParam2 = s.pktParam2 ∧ u.txfill = s.txfill
  eng : 2 < n → u.eng = s.eng
  idx : 3 < n → u.idx = s.idx
  pktChecksum : 4 < n → u.pktChecksum = s.pktChecksum
  frmLength : 5 < n → u.frmLength = s.frmLength
  frmChecksumLo : 6 < n → loByte u.frmChecksum = loByte s.frmChecksum
  frmChecksum : 7 < n → u.frmChecksum = s.frmChecksum
  frmValid : 8 < n → u.frmValid = s.frmValid
  payload : ∀ j < m, readByte .rxbuf j u = readByte .rxbuf j s

/-- Two machines in step. -/
structure InStep (s u : State) : Prop where
  agree : Agree (level s.phase) (bytesStored s.phase s) s u
  outcome : outcomeKnown s.phase = true → u.resKind = s.resKind ∧ u.resCode = s.resCode

namespace Agree
section
variable {n m : Nat} {s u : State}

/-! ### The levels -/

theorem mono (h : Agree n m s u) {n' m' : Nat} (hn : n' ≤ n) (hm : m' ≤ m) : Agree n' m' s u :=
  { h with
    cmd := fun hk => h.cmd (by omega)
    packet := fun hk => h.packet (by omega)
    eng := fun hk => h.eng (by omega)
    idx := fun hk => h.idx (by omega)
    pktChecksum := fun hk => h.pktChecksum (by omega)
    frmLength := fun hk => h.frmLength (by omega)
    frmChecksumLo := fun hk => h.frmChecksumLo (by omega)
    frmChecksum := fun hk => h.frmChecksum (by omega)
    frmValid := fun hk => h.frmValid (by omega)
    payload := fun j hj => h.payload j (by omega) }

/-- Agreement on one register more. -/
theorem raise (h : Agree n m s u) (hcmd : n = 0 → u.cmd = s.cmd := by simp)
    (hpacket : n = 1 → u.pktCount = s.pktCount ∧ u.pktOpcode = s.pktOpcode ∧ u.pktParam1 = s.pktParam1 ∧
      u.pktParam2 = s.pktParam2 ∧ u.txfill = s.txfill := by simp)
    (heng : n = 2 → u.eng = s.eng := by simp) (hidx : n = 3 → u.idx = s.idx := by simp)
    (hpktChecksum : n = 4 → u.pktChecksum = s.pktChecksum := by simp)
    (hfrmLength : n = 5 → u.frmLength = s.frmLength := by simp)
    (hfrmChecksumLo : n = 6 → loByte u.frmChecksum = loByte s.frmChecksum := by simp)
    (hfrmChecksum : n = 7 → u.frmChecksum = s.frmChecksum := by simp)
    (hfrmValid : n = 8 → u.frmValid = s.frmValid := by simp) : Agree (n + 1) m s u :=
  have step : ∀ {k : Nat} {p : Prop}, (k < n → p) → (n = k → p) → k < n + 1 → p := fun hlt heq hk =>
    (Nat.lt_succ_iff_lt_or_eq.1 hk).elim hlt fun e => heq e.symm
  { h with
    cmd := step h.cmd hcmd
    packet := step h.packet hpacket
    eng := step h.eng heng
    idx := step h.idx hidx
    pktChecksum := step h.pktChecksum hpktChecksum
    frmLength := step h.frmLength hfrmLength
    frmChecksumLo := step h.frmChecksumLo hfrmChecksumLo
    frmChecksum := step h.frmChecksum hfrmChecksum
    frmValid := step h.frmValid hfrmValid }

/-! ### What agreeing states read -/

theorem nextAck (h : Agree n m s u) : nextAck u = nextAck s := by
  simp [Machine.nextAck, h.acks, h.draws]

theorem nextByte (h : Agree n m s u) : nextByte u = nextByte s := by
  simp [Machine.nextByte, h.bytes, h.draws]

theorem crcValue (h : Agree n m s u) (hn : 2 < n) : crcValue u = crcValue s := by
  simp [Machine.crcValue, h.cfg, h.eng hn]

theorem headerByte (h : Agree n m s u) (hn : 3 < n) : headerByte u = headerByte s := by
  obtain ⟨h1, h2, h3, h4, -⟩ := h.packet (by omega)
  rw [Machine.headerByte, header_congr h1 h2 h3 h4, h.idx hn]
  rfl

theorem payloadLen (h : Agree n m s u) (hn : 5 < n) : payloadLen u = payloadLen s :=
  congrArg payloadCount (h.frmLength hn)

/-! ### The operations of the state -/

theorem called (h : Agree n m s u) : Agree n m (called s) (called u) :=
  { h with callsLeft := congrArg (Option.map (· - 1)) h.callsLeft }

theorem setIdx (h : Agree n m s u) {v v' : Byte} (hv : v' = v) : Agree n m (setIdx v s) (setIdx v' u) :=
  { h with idx := fun _ => hv }

theorem crcInit (h : Agree n m s u) : Agree n m (crcInit s) (crcInit u) :=
  { h with eng := fun _ => congrArg (fun c : Params => engInit c.crcSeed) h.cfg }

theorem crcUpdate (h : Agree n m s u) {b b' : Byte} (hb : b' = b) : Agree n m (crcUpdate b s) (crcUpdate b' u) :=
  { h with eng := fun hn => congrArg₂ engUpdate (h.eng hn) hb }

theorem crcResult (h : Agree n m s u) : Agree n m (crcResult s) (crcResult u) := { h with phase := h.phase }

theorem delayMs (h : Agree n m s u) (k : Nat) : Agree n m (delayMs k s) (delayMs k u) := { h with phase := h.phase }

theorem busStart (h : Agree n m s u) : Agree n m (busStart s) (busStart u) :=
  { h with draws := congrArg (· + 1) h.draws }

theorem busAddress (h : Agree n m s u) (d : Dir) : Agree n m (busAddress d s) (busAddress d u) :=
  { h with phase := h.phase }

theorem busStop (h : Agree n m s u) : Agree n m (busStop s) (busStop u) := { h with phase := h.phase }

theorem busWrite (h : Agree n m s u) (b b' : Byte) : Agree n m (busWrite b s) (busWrite b' u) :=
  { h with
    acks := congrArg List.tail h.acks
    draws := by
      show (if u.acks = [] then u.draws + 1 else u.draws) = if s.acks = [] then s.draws + 1 else s.draws
      rw [h.acks, h.draws] }

theorem busRead (h : Agree n m s u) (k : AckKind) : Agree n m (busRead k s) (busRead k u) :=
  { h with
    bytes := congrArg List.tail h.bytes
    draws := by
      show (if u.bytes = [] then u.draws + 1 else u.draws) = if s.bytes = [] then s.draws + 1 else s.draws
      rw [h.bytes, h.draws] }

theorem setRes (h : Agree n m s u) (k k' : ResKind) (c c' : Byte) : Agree n m (setRes k c s) (setRes k' c' u) :=
  { h with phase := h.phase }

theorem setPktChecksum (h : Agree n m s u) {c c' : Word} (hc : c' = c) :
    Agree n m (setPktChecksum c s) (setPktChecksum c' u) :=
  { h with pktChecksum := fun _ => hc }

theorem setFrmLength (h : Agree n m s u) {l l' : Byte} (hl : l' = l) : Agree n m (setFrmLength l s) (setFrmLength l' u) :=
  { h with frmLength := fun _ => hl }

theorem setFrmChecksumLo (h : Agree n m s u) {b b' : Byte} (hb : b' = b) :
    Agree n m (setFrmChecksumLo b s) (setFrmChecksumLo b' u) :=
  { h with
    frmChecksumLo := fun _ => by simp [hb]
    frmChecksum := fun hn => by simp [hb, h.frmChecksum hn] }

theorem setFrmChecksumHi (h : Agree n m s u) {b b' : Byte} (hb : b' = b) :
    Agree n m (setFrmChecksumHi b s) (setFrmChecksumHi b' u) :=
  { h with
    frmChecksumLo := fun hn => by simp [h.frmChecksumLo hn]
    frmChecksum := fun hn => by simp [hb, h.frmChecksum hn] }

theorem setCalc (h : Agree n m s u) (c c' : Word) (hn : n ≤ 8) : Agree n m (setCalc c s) (setCalc c' u) :=
  { h with frmValid := fun hk => absurd hk (by omega) }

/-- The next payload byte is stored. -/
theorem writeByte (h : Agree n m s u) {b b' : Byte} (hb : b' = b) :
    Agree n (m + 1) (writeByte .rxbuf m b s) (writeByte .rxbuf m b' u) :=
  { h with
    payload := fun j hj => by
      rcases Nat.lt_succ_iff_lt_or_eq.1 hj with hlt | rfl
      · have hkept := h.payload j hlt
        simpa [Machine.writeByte, readByte, buffer, memRead_memWrite_ne _ _ _ _ (Nat.ne_of_lt hlt)] using hkept
      · simp [Machine.writeByte, readByte, buffer, hb] }

end
end Agree

end Sys2Proof.Machine
end

section
/-! SUPPORT. Two machines in step stay in step (44_operations.md R143): row by row of the phase table. -/

namespace Sys2Proof.Machine

/-- Whatever next state `x` answers, `y` answers one in step with it. -/
def Follows (x y : Answer) : Prop := ∀ t, x = .next t → ∃ v, y = .next v ∧ InStep t v

section
variable {i : Instr} {n m : Nat} {s u : State} {act act' : State → Answer} {x x' y y' : Answer}

theorem follows_next {t v : State} (h : InStep t v) : Follows (.next t) (.next v) := by
  intro t' ht
  cases ht
  exact ⟨v, rfl, h⟩

theorem follows_fault (f : Fault) (y : Answer) : Follows (.fault f) y :=
  fun _ h => by cases h

theorem follows_ite {p q : Prop} [Decidable p] [Decidable q] (h : q ↔ p) (hx : p → Follows x x') (hy : ¬p → Follows y y') :
    Follows (if p then x else y) (if q then x' else y') := by
  by_cases hp : p
  · rw [if_pos hp, if_pos (h.2 hp)]
    exact hx hp
  · rw [if_neg hp, if_neg (mt h.1 hp)]
    exact hy hp

/-- A row goes on to a phase for which its states agree on enough … -/
theorem follows_goto_outcome (h : Agree n m s u) (q : Phase) (hn : level q ≤ n) (hm : bytesStored q s ≤ m)
    (ho : outcomeKnown q = true → u.resKind = s.resKind ∧ u.resCode = s.resCode) :
    Follows (.next (goto q s)) (.next (goto q u)) :=
  follows_next ⟨{ h.mono hn hm with phase := rfl }, ho⟩

/-- … the outcome not being asked for until CLASSIFY or the abort has set it. -/
theorem follows_goto (h : Agree n m s u) (q : Phase) (hn : level q ≤ n) (hm : bytesStored q s ≤ m)
    (ho : outcomeKnown q = false) : Follows (.next (goto q s)) (.next (goto q u)) :=
  follows_goto_outcome h q hn hm fun hk => absurd (ho.symm.trans hk) (by decide)

theorem follows_withCall (h : InStep s u) (hact : Follows (act (called s)) (act' (called u))) :
    Follows (withCall act s) (withCall act' u) := by
  by_cases hc : s.callsLeft = some 0
  · rw [withCall_stuck _ hc, withCall_stuck _ (h.agree.callsLeft.trans hc)]
    exact follows_next h
  · rw [withCall_returns _ hc, withCall_returns _ (h.agree.callsLeft ▸ hc)]
    exact hact

theorem follows_writeOrAbort {b b' : Byte} (h : Agree n m s u) (hn : 2 ≤ n)
    (hok : Follows (act (busWrite b s)) (act' (busWrite b' u))) :
    Follows (writeOrAbort b act s) (writeOrAbort b' act' u) := by
  unfold writeOrAbort
  rw [h.nextAck]
  cases nextAck s with
  | ok => exact hok
  | busError => exact follows_goto (h.busWrite b b') .txAbort hn (Nat.zero_le m) rfl

/-! ### TRANSMIT -/

section
variable (hstep : InStep s u)
include hstep

theorem follows_rowTxCrcInit (h : Agree 2 m s u) : Follows (rowTxCrcInit s) (rowTxCrcInit u) :=
  have hinit : Agree 3 m _ _ := h.called.crcInit.raise (heng := fun _ => by simp [h.cfg])
  follows_withCall hstep (follows_goto hinit .txStart le_rfl (Nat.zero_le m) rfl)

theorem follows_rowTxStart (h : Agree 3 m s u) : Follows (rowTxStart s) (rowTxStart u) :=
  follows_withCall hstep (follows_goto h.called.busStart .txAddr le_rfl (Nat.zero_le m) rfl)

theorem follows_rowTxAddr (h : Agree 3 m s u) : Follows (rowTxAddr s) (rowTxAddr u) :=
  follows_withCall hstep (follows_goto (h.called.busAddress .write) .txExec le_rfl (Nat.zero_le m) rfl)

theorem follows_rowTxExec (h : Agree 3 m s u) : Follows (rowTxExec s) (rowTxExec u) :=
  have hcleared : Agree 4 m _ _ := (h.called.setIdx (v := 0#8) rfl).raise (hidx := fun _ => rfl)
  follows_withCall hstep (follows_writeOrAbort hcleared (by decide)
    (follows_goto (hcleared.busWrite _ _) .txHdrUpd le_rfl (Nat.zero_le m) rfl))

theorem follows_rowTxHdrUpd (h : Agree 4 m s u) : Follows (rowTxHdrUpd s) (rowTxHdrUpd u) := by
  rw [rowTxHdrUpd, rowTxHdrUpd, h.headerByte (by decide)]
  cases headerByte s with
  | none => exact follows_fault _ _
  | some b => exact follows_withCall hstep (follows_goto (h.called.crcUpdate rfl) .txHdrWr le_rfl (Nat.zero_le m) rfl)

omit hstep in
theorem follows_afterHeaderWrite (h : Agree 4 m s u) : Follows (afterHeaderWrite s) (afterHeaderWrite u) := by
  have hidx := h.idx (by decide)
  obtain ⟨-, -, -, -, hfill⟩ := h.packet (by decide)
  refine follows_ite (by rw [hidx]) (fun _ => ?_) fun _ => follows_ite (by rw [hfill]) (fun _ => ?_) fun _ => ?_
  · exact follows_goto (h.setIdx (congrArg (· + 1#8) hidx)) .txHdrUpd le_rfl (Nat.zero_le m) rfl
  · exact follows_goto (h.setIdx rfl) .txFillUpd le_rfl (Nat.zero_le m) rfl
  · exact follows_goto (h.setIdx rfl) .txCrcRes le_rfl (Nat.zero_le m) rfl

theorem follows_rowTxHdrWr (h : Agree 4 m s u) : Follows (rowTxHdrWr s) (rowTxHdrWr u) := by
  rw [rowTxHdrWr, rowTxHdrWr, h.headerByte (by decide)]
  cases headerByte s with
  | none => exact follows_fault _ _
  | some b =>
    exact follows_withCall hstep
      (follows_writeOrAbort h.called (by decide) (follows_afterHeaderWrite (h.called.busWrite b b)))

theorem follows_rowTxFillUpd (h : Agree 4 m s u) : Follows (rowTxFillUpd s) (rowTxFillUpd u) :=
  follows_withCall hstep
    (follows_goto (h.called.crcUpdate (congrArg Params.filler h.cfg)) .txFillWr le_rfl (Nat.zero_le m) rfl)

omit hstep in
theorem follows_afterFillerWrite (h : Agree 4 m s u) : Follows (afterFillerWrite s) (afterFillerWrite u) := by
  have hidx := h.idx (by decide)
  obtain ⟨-, -, -, -, hfill⟩ := h.packet (by decide)
  have hnext := h.setIdx (congrArg (· + 1#8) hidx)
  refine follows_ite (by rw [hidx, hfill]) (fun _ => ?_) fun _ => follows_ite (by rw [hidx, hfill]) (fun _ => ?_) fun _ => ?_
  · exact follows_goto hnext .txFillUpd le_rfl (Nat.zero_le m) rfl
  · exact follows_goto hnext .txCrcRes le_rfl (Nat.zero_le m) rfl
  · exact follows_fault _ _

theorem follows_rowTxFillWr (h : Agree 4 m s u) : Follows (rowTxFillWr s) (rowTxFillWr u) :=
  follows_withCall hstep
    (follows_writeOrAbort h.called (by decide) (follows_afterFillerWrite (h.called.busWrite _ _)))

theorem follows_rowTxCrcRes (h : Agree 4 m s u) : Follows (rowTxCrcRes s) (rowTxCrcRes u) :=
  have hvalue := h.called.crcValue (by decide)
  have hset : Agree 5 m _ _ := ((h.called.crcResult).setPktChecksum hvalue).raise (hpktChecksum := fun _ => hvalue)
  follows_withCall hstep (follows_goto hset .txCkLo le_rfl (Nat.zero_le m) rfl)

theorem follows_rowTxCkLo (h : Agree 5 m s u) : Follows (rowTxCkLo s) (rowTxCkLo u) :=
  follows_withCall hstep (follows_writeOrAbort h.called (by decide)
    (follows_goto (h.called.busWrite _ _) .txCkHi le_rfl (Nat.zero_le m) rfl))

theorem follows_rowTxCkHi (h : Agree 5 m s u) : Follows (rowTxCkHi s) (rowTxCkHi u) :=
  follows_withCall hstep (follows_writeOrAbort h.called (by decide)
    (follows_goto (h.called.busWrite _ _) .txStop le_rfl (Nat.zero_le m) rfl))

theorem follows_rowTxStop (h : Agree 5 m s u) : Follows (rowTxStop s) (rowTxStop u) :=
  follows_withCall hstep (follows_goto h.called.busStop .wait le_rfl (Nat.zero_le m) rfl)

/-! ### RECEIVE -/

theorem follows_rowWait {k : Nat} (h : Agree 5 m s u) : Follows (rowWait k s) (rowWait k u) :=
  follows_withCall hstep (follows_goto (h.called.delayMs k) .rxCrcInit le_rfl (Nat.zero_le m) rfl)

theorem follows_rowRxCrcInit (h : Agree 5 m s u) : Follows (rowRxCrcInit s) (rowRxCrcInit u) :=
  follows_withCall hstep (follows_goto h.called.crcInit .rxStart le_rfl (Nat.zero_le m) rfl)

theorem follows_rowRxStart (h : Agree 5 m s u) : Follows (rowRxStart s) (rowRxStart u) :=
  follows_withCall hstep (follows_goto h.called.busStart .rxAddr le_rfl (Nat.zero_le m) rfl)

theorem follows_rowRxAddr (h : Agree 5 m s u) : Follows (rowRxAddr s) (rowRxAddr u) :=
  follows_withCall hstep (follows_goto (h.called.busAddress .read) .rxLenRd le_rfl (Nat.zero_le m) rfl)

theorem follows_rowRxLenRd (h : Agree 5 m s u) : Follows (rowRxLenRd s) (rowRxLenRd u) :=
  have hbyte := h.called.nextByte
  have hset : Agree 6 m _ _ := ((h.called.busRead .ack).setFrmLength hbyte).raise (hfrmLength := fun _ => hbyte)
  follows_withCall hstep (follows_goto hset .rxLenUpd le_rfl (Nat.zero_le m) rfl)

theorem follows_rowRxLenUpd (h : Agree 6 m s u) : Follows (rowRxLenUpd s) (rowRxLenUpd u) := by
  refine follows_withCall hstep ?_
  have hnext := (h.called.crcUpdate (h.called.frmLength (by decide))).setIdx (v := 0#8) rfl
  rw [h.called.payloadLen (by decide)]
  split
  · exact follows_goto hnext .rxPayRd le_rfl (Nat.zero_le m) rfl
  · next hnone => exact follows_goto hnext .rxCkLo le_rfl (Nat.le_trans (Nat.le_of_not_lt hnone) (Nat.zero_le m)) rfl

omit hstep in
theorem idxInRxbuf_eq (h : Agree 6 m s u) : idxInRxbuf u = idxInRxbuf s := by
  rw [idxInRxbuf, idxInRxbuf, h.idx (by decide), h.cfg]

theorem follows_rowRxPayRd (h : Agree 6 s.idx.toNat s u) : Follows (rowRxPayRd s) (rowRxPayRd u) := by
  refine follows_withCall hstep (follows_ite (by rw [idxInRxbuf_eq h.called]) (fun _ => ?_) fun _ => follows_fault _ _)
  rw [h.called.idx (by decide)]
  exact follows_goto ((h.called.busRead .ack).writeByte h.called.nextByte) .rxPayUpd le_rfl le_rfl rfl

theorem follows_rowRxPayUpd (h : Agree 6 (s.idx.toNat + 1) s u) : Follows (rowRxPayUpd s) (rowRxPayUpd u) := by
  refine follows_ite (by rw [idxInRxbuf_eq h]) (fun _ => follows_withCall hstep ?_) fun _ => follows_fault _ _
  have hidx := h.called.idx (by decide)
  have hnext := (h.called.crcUpdate (h.called.payload _ (Nat.lt_succ_self _))).setIdx (v := (called s).idx + 1#8) rfl
  rw [hidx, h.called.payloadLen (by decide)]
  split
  · refine follows_goto hnext .rxPayRd le_rfl ?_ rfl
    exact (BitVec.toNat_add ..).le.trans (Nat.mod_le _ _)
  · next hlast => exact follows_goto hnext .rxCkLo le_rfl (Nat.le_of_not_lt hlast) rfl

theorem follows_rowRxCkLo (h : Agree 6 (payloadLen s) s u) : Follows (rowRxCkLo s) (rowRxCkLo u) :=
  have hbyte := h.called.nextByte
  have hset : Agree 7 (payloadLen s) _ _ :=
    ((h.called.busRead .ack).setFrmChecksumLo hbyte).raise (hfrmChecksumLo := fun _ => by simp [h.nextByte])
  follows_withCall hstep (follows_goto hset .rxCkHi le_rfl le_rfl rfl)

theorem follows_rowRxCkHi (h : Agree 7 (payloadLen s) s u) : Follows (rowRxCkHi s) (rowRxCkHi u) :=
  have hbyte := h.called.nextByte
  have hset : Agree 8 (payloadLen s) _ _ := ((h.called.busRead .nack).setFrmChecksumHi hbyte).raise
    (hfrmChecksum := fun _ => by simp [h.nextByte, h.frmChecksumLo (by decide)])
  follows_withCall hstep (follows_goto hset .rxStop le_rfl le_rfl rfl)

theorem follows_rowRxStop (h : Agree 8 (payloadLen s) s u) : Follows (rowRxStop s) (rowRxStop u) :=
  follows_withCall hstep (follows_goto h.called.busStop .rxCrcRes le_rfl le_rfl rfl)

theorem follows_rowRxCrcRes (h : Agree 8 (payloadLen s) s u) : Follows (rowRxCrcRes s) (rowRxCrcRes u) :=
  have hset : Agree 9 (payloadLen s) _ _ := (h.called.crcResult.setCalc (crcValue (called s)) (crcValue (called u))
    le_rfl).raise (hfrmValid := fun _ => by simp [h.crcValue (by decide), h.frmChecksum (by decide)])
  follows_withCall hstep (follows_goto hset .classify le_rfl le_rfl rfl)

/-! ### The internal phases and the abort -/

theorem follows_rowTxAbort (h : Agree 2 m s u) : Follows (rowTxAbort (afterOf i) s) (rowTxAbort (afterOf i) u) :=
  follows_withCall hstep (follows_goto_outcome (h.called.busStop.setRes _ _ _ _) (afterOf i) (by cases i <;> rfl)
    (by cases i <;> exact Nat.zero_le m) fun _ => ⟨rfl, congrArg Params.stBusError h.cfg⟩)

omit hstep in
theorem follows_build (h : Agree 1 m s u) :
    Follows (.next (goto .txCrcInit (buildOf i s))) (.next (goto .txCrcInit (buildOf i u))) := by
  rw [buildOf_eq, buildOf_eq, h.cfg]
  have hset : Agree 2 m (buildPacket (opcodeOf s.cfg i) (param1Of s.cfg i) (param2Of s.cfg i) (fillerOf i) s)
      (buildPacket (opcodeOf s.cfg i) (param1Of s.cfg i) (param2Of s.cfg i) (fillerOf i) u) :=
    Agree.raise { h with packet := fun hn => absurd hn (by decide) }
      (hpacket := fun _ => ⟨by rw [buildPacket, h.cfg]; rfl, rfl, rfl, rfl, rfl⟩)
  exact follows_goto hset .txCrcInit le_rfl (Nat.zero_le m) rfl

omit hstep in
theorem Agree.deliverOf (h : Agree n m s u) : Agree n m (deliverOf i s) (deliverOf i u) := by
  cases i with
  | random k =>
    obtain ⟨r, hr⟩ := copyPayload_rnd s.cfg.randomLen s
    obtain ⟨r', hr'⟩ := copyPayload_rnd u.cfg.randomLen u
    rw [Machine.deliverOf, deliverRandom, deliverRandom, hr, hr']
    exact { h with phase := h.phase }
  | serial =>
    obtain ⟨r, hr⟩ := copyPayload_ser serialLen s
    obtain ⟨r', hr'⟩ := copyPayload_ser serialLen u
    rw [Machine.deliverOf, deliverSerial, deliverSerial, hr, hr']
    exact { h with phase := h.phase }
  | _ => exact { h with phase := h.phase }

omit hstep in
/-- CLASSIFY reads the frame descriptor and, of a standard frame, the first payload byte. -/
theorem follows_classify (h : Agree 9 (payloadLen s) s u) (hstd : 4 ≤ s.cfg.frameStd.toNat) :
    Follows (.next (goto (afterOf i) (classifyFrame (expectedOf s.cfg i) (Machine.deliverOf i) s)))
      (.next (goto (afterOf i) (classifyFrame (expectedOf s.cfg i) (Machine.deliverOf i) u))) := by
  have hvalid := h.frmValid (by decide)
  have hlen := h.frmLength (by decide)
  have hlevel : level (afterOf i) ≤ 9 := by cases i <;> simp [level, afterOf]
  have hnone : ∀ v, bytesStored (afterOf i) v ≤ payloadLen s := fun v => by cases i <;> exact Nat.zero_le _
  rcases classifyFrame_res (expectedOf s.cfg i) (Machine.deliverOf i) s with ⟨hv, hl, e⟩ | ⟨hv, hl, he, e⟩ | ⟨hne, e⟩
  · have hpos : 0 < payloadLen s := by
      rw [payloadLen, payloadCount, hl, frameOverhead]
      omega
    rw [e, classifyFrame_standard (hvalid.trans hv) (by rw [hlen, hl, h.cfg])]
    exact follows_goto_outcome (h.setRes _ _ _ _) _ hlevel (hnone _) fun _ => ⟨rfl, h.payload 0 hpos⟩
  · rw [e, classifyFrame_success (hvalid.trans hv) (by rwa [hlen, h.cfg]) (by rw [hlen, he])]
    exact follows_goto_outcome (h.deliverOf.setRes _ _ _ _) _ hlevel (hnone _) fun _ =>
      ⟨rfl, congrArg Params.stSuccess h.cfg⟩
  · rw [e, classifyFrame_otherError (by rwa [hvalid, hlen, h.cfg])]
    exact follows_goto_outcome (h.setRes _ _ _ _) _ hlevel (hnone _) fun _ => ⟨rfl, congrArg Params.stOtherError h.cfg⟩

/-- INITMAP maps the outcome by the outcome. -/
theorem follows_initmap (h : Agree 2 m s u) (hs : s.phase = .initmap) :
    Follows (.next (goto .done (initMap s))) (.next (goto .done (initMap u))) := by
  obtain ⟨hk, hc⟩ := hstep.outcome (by rw [hs]; rfl)
  unfold initMap
  rw [hk, hc, h.cfg]
  split
  · exact follows_goto_outcome (h.setRes _ _ _ _) .done le_rfl (Nat.zero_le m) fun _ => ⟨rfl, rfl⟩
  · exact follows_goto_outcome (h.setRes _ _ _ _) .done le_rfl (Nat.zero_le m) fun _ => ⟨rfl, rfl⟩

theorem follows_done (h : Agree 2 m s u) (hs : s.phase = .done) : Follows (.next (complete s)) (.next (complete u)) := by
  have hidle : Agree 0 0 s u := h.mono (Nat.zero_le _) (Nat.zero_le _)
  refine follows_next ⟨{ hidle with phase := rfl, busy := rfl }, fun _ => hstep.outcome ?_⟩
  rw [hs]
  rfl

/-- A step of an operation, in every busy phase. -/
theorem exec_follows (hi : s.phase ≠ .idle) (hstd : 4 ≤ s.cfg.frameStd.toNat) : Follows (exec i s) (exec i u) := by
  have h := hstep.agree
  have hphase := h.phase
  rw [exec_eq, exec_eq, h.cfg]
  cases hs : s.phase <;> rw [hs] at h hphase <;> simp only [operationStep, hs, hphase]
  case idle => exact absurd hs hi
  case build => exact follows_build h
  case txCrcInit => exact follows_rowTxCrcInit hstep h
  case txStart => exact follows_rowTxStart hstep h
  case txAddr => exact follows_rowTxAddr hstep h
  case txExec => exact follows_rowTxExec hstep h
  case txHdrUpd => exact follows_rowTxHdrUpd hstep h
  case txHdrWr => exact follows_rowTxHdrWr hstep h
  case txFillUpd => exact follows_rowTxFillUpd hstep h
  case txFillWr => exact follows_rowTxFillWr hstep h
  case txCrcRes => exact follows_rowTxCrcRes hstep h
  case txCkLo => exact follows_rowTxCkLo hstep h
  case txCkHi => exact follows_rowTxCkHi hstep h
  case txStop => exact follows_rowTxStop hstep h
  case txAbort => exact follows_rowTxAbort hstep h
  case wait => exact follows_rowWait hstep h
  case rxCrcInit => exact follows_rowRxCrcInit hstep h
  case rxStart => exact follows_rowRxStart hstep h
  case rxAddr => exact follows_rowRxAddr hstep h
  case rxLenRd => exact follows_rowRxLenRd hstep h
  case rxLenUpd => exact follows_rowRxLenUpd hstep h
  case rxPayRd => exact follows_rowRxPayRd hstep h
  case rxPayUpd => exact follows_rowRxPayUpd hstep h
  case rxCkLo => exact follows_rowRxCkLo hstep h
  case rxCkHi => exact follows_rowRxCkHi hstep h
  case rxStop => exact follows_rowRxStop hstep h
  case rxCrcRes => exact follows_rowRxCrcRes hstep h
  case classify => exact follows_classify h hstd
  case initmap => exact follows_initmap hstep h hs
  case done => exact follows_done hstep h hs

end

end

end Sys2Proof.Machine
end

section
/-! SUPPORT. Runs in step (44_operations.md R143): the events of a step, the step itself, and the run. -/

namespace Sys2Proof.Machine

section
variable {i : Instr} {s t u v : State}

/-- Machines in step make the same events. -/
theorem InStep.eventOf (hstep : InStep s u) : eventOf i u = eventOf i s := by
  have h := hstep.agree
  have hphase := h.phase
  have hack := h.nextAck
  have hbyte := h.nextByte
  have hcfg := h.cfg
  unfold Machine.eventOf
  cases hs : s.phase <;> rw [hs] at h hphase <;> simp only [hphase, hack, hbyte, hcfg]
  case txHdrUpd | txHdrWr => rw [h.headerByte (by decide)]
  case txCrcRes | rxCrcRes => rw [h.crcValue (by decide)]
  case txCkLo | txCkHi => rw [h.pktChecksum (by decide)]
  case rxLenUpd => rw [h.frmLength (by decide)]
  case rxPayUpd => rw [h.idx (by decide), h.payload _ (Nat.lt_succ_self _)]

/-- Two states have got the same events since two others. -/
def SameNews (s u t v : State) : Prop := ∃ new, t.trace = s.trace ++ new ∧ v.trace = u.trace ++ new

theorem SameNews.trans {s1 u1 : State} (h1 : SameNews s u s1 u1) (h2 : SameNews s1 u1 t v) : SameNews s u t v := by
  obtain ⟨n1, ht1, hv1⟩ := h1
  obtain ⟨n2, ht2, hv2⟩ := h2
  exact ⟨n1 ++ n2, by rw [ht2, ht1, List.append_assoc], by rw [hv2, hv1, List.append_assoc]⟩

/-- A row adds the same event to both traces, or none to either. -/
theorem InStep.news (h : InStep s u) (ht : RowStep i s t) (hv : RowStep i u v) : SameNews s u t v := by
  have hphase := h.agree.phase
  by_cases hcall : callsPrimitive s.phase = true
  · have hcall' : callsPrimitive u.phase = true := by rwa [hphase]
    by_cases hc : s.callsLeft = some 0
    · rw [rowStep_stuck ht hcall hc, rowStep_stuck hv hcall' (h.agree.callsLeft.trans hc)]
      exact ⟨[], by simp, by simp⟩
    · obtain ⟨⟨e, he, htrace⟩, -⟩ := rowStep_event ht hcall hc
      obtain ⟨⟨e', he', htrace'⟩, -⟩ := rowStep_event hv hcall' (by rwa [h.agree.callsLeft])
      rw [h.eventOf, he, Option.some.injEq] at he'
      exact ⟨[e], htrace, he' ▸ htrace'⟩
  · have hcall : callsPrimitive s.phase = false := by simpa using hcall
    have hcall' : callsPrimitive u.phase = false := by rwa [hphase]
    exact ⟨[], by simp [rowStep_internal ht hcall], by simp [rowStep_internal hv hcall']⟩

/-- A step in a busy phase. -/
theorem step_follows_busy (h : InStep s u) (hi : s.phase ≠ .idle) (hstd : 4 ≤ s.cfg.frameStd.toNat) (ht : step s = .next t) :
    ∃ v, step u = .next v ∧ InStep t v ∧ SameNews s u t v := by
  rcases step_next ht with ⟨hp, -⟩ | ⟨hp, -⟩ | ⟨hp, -⟩ | ⟨-, i, hd, hexec, hrow⟩
  · exact absurd hp hi
  · exact absurd hp hi
  · exact absurd hp hi
  · have hi' : u.phase ≠ .idle := by rwa [h.agree.phase]
    have hpos : 0 < level s.phase := by
      cases hs : s.phase <;> simp [level, hs] at hi ⊢
    have hd' : decode u.cmd = .ok i := by rw [h.agree.cmd hpos, hd]
    obtain ⟨v, hv, hstep⟩ := exec_follows h hi hstd t hexec
    exact ⟨v, (step_busy hi' hd').trans hv, hstep, h.news hrow (exec_rowStep hi' hv)⟩

/-- A word taken in `IDLE`, whatever the registers hold. -/
theorem step_follows_word {w : Word} {rest : List Word} (h : Agree 0 0 s u) (hi : s.phase = .idle) (hb : s.busy = false)
    (hw : s.program = w :: rest) (ht : step s = .next t) : ∃ v, step u = .next v ∧ InStep t v ∧ SameNews s u t v := by
  have hi' : u.phase = .idle := h.phase.trans hi
  have hb' : u.busy = false := h.busy.trans hb
  have hw' : u.program = w :: rest := h.program.trans hw
  cases hd : decode w with
  | ok i =>
    obtain ⟨hwf, -⟩ := decodedWordIsItsEncoding w i hd
    have hs := (step_idle_legal hi hb hw hd).trans (exec_idle_accepts (s := setProgram rest s) hwf hi hb)
    have hu := (step_idle_legal hi' hb' hw' hd).trans (exec_idle_accepts (s := setProgram rest u) hwf hi' hb')
    rw [hs] at ht
    cases ht
    refine ⟨_, hu, ⟨?_, nofun⟩, [], by simp, by simp⟩
    have haccepted : Agree 0 0 (accept (encode i) (setProgram rest s)) (accept (encode i) (setProgram rest u)) :=
      { h with phase := rfl, busy := rfl, program := rfl, cmd := nofun }
    exact haccepted.raise (hcmd := fun _ => rfl)
  | error e =>
    rw [step_idle_illegal hi hb hw hd] at ht
    cases ht
    refine ⟨_, step_idle_illegal hi' hb' hw' hd, ⟨?_, fun _ => ⟨rfl, congrArg Config.freeCode h.draws⟩⟩,
      [], by simp, by simp⟩
    have hp : (reject (setProgram rest s)).phase = .idle := hi
    rw [hp]
    exact { h with draws := congrArg (· + 1) h.draws, program := rfl }

/-- A step of machines in step. -/
theorem step_follows (h : InStep s u) (hstd : 4 ≤ s.cfg.frameStd.toNat) (ht : step s = .next t) :
    ∃ v, step u = .next v ∧ InStep t v ∧ SameNews s u t v := by
  by_cases hi : s.phase = .idle
  · have hidle : Agree 0 0 s u := h.agree.mono (Nat.zero_le _) (Nat.zero_le _)
    have hi' : u.phase = .idle := h.agree.phase.trans hi
    by_cases hb : s.busy = true
    · rw [step_idle_waits hi (.inr hb)] at ht
      cases ht
      exact ⟨u, step_idle_waits hi' (.inr (h.agree.busy.trans hb)), h, [], by simp, by simp⟩
    · cases hw : s.program with
      | nil =>
        rw [step_idle_waits hi (.inl hw)] at ht
        cases ht
        exact ⟨u, step_idle_waits hi' (.inl (h.agree.program.trans hw)), h, [], by simp, by simp⟩
      | cons w rest => exact step_follows_word hidle hi (by simpa using hb) hw ht
  · exact step_follows_busy h hi hstd ht

/-- A run of more than no steps begins with a step. -/
theorem step_of_run_succ {k : Nat} (h : Host.Core.run Sys2Proof.core (k + 1) s = .next t) :
    ∃ s1, step s = .next s1 ∧ Host.Core.run Sys2Proof.core k s1 = .next t := by
  simp only [Host.Core.run] at h
  split at h
  · exact ⟨_, by assumption, h⟩
  · cases h
  · cases h

/-- A run of machines in step. -/
theorem run_follows {k : Nat} (h : InStep s u) (hstd : 4 ≤ s.cfg.frameStd.toNat)
    (ht : Host.Core.run Sys2Proof.core k s = .next t) :
    ∃ v, Host.Core.run Sys2Proof.core k u = .next v ∧ InStep t v ∧ SameNews s u t v := by
  induction k generalizing s u with
  | zero =>
    cases ht
    exact ⟨u, rfl, h, [], by simp, by simp⟩
  | succ k ih =>
    obtain ⟨s1, hs1, hrest⟩ := step_of_run_succ ht
    obtain ⟨u1, hu1, h1, hnews1⟩ := step_follows h hstd hs1
    obtain ⟨v, hv, hstep, hnews⟩ := ih h1 (by rwa [noStepWritesTheConfiguration s s1 hs1]) hrest
    exact ⟨v, (run_step hu1).trans hv, hstep, hnews1.trans hnews⟩

end

/-- Settles O36: after the first step the two machines are in step. -/
theorem outcomeIndependentOfHistory : Obligations.OutcomeIndependentOfHistory := by
  intro s u w rest k t hstd hs hu hsb hub hsw huw hcfg hacks hbytes hcalls hdraws hrun
  have hagree : Agree 0 0 s u :=
    { phase := hu.trans hs.symm, busy := hub.trans hsb.symm, cfg := hcfg, acks := hacks, bytes := hbytes,
      callsLeft := hcalls, draws := hdraws, program := huw.trans hsw.symm, cmd := nofun, packet := nofun, eng := nofun,
      idx := nofun, pktChecksum := nofun, frmLength := nofun, frmChecksumLo := nofun, frmChecksum := nofun,
      frmValid := nofun, payload := nofun }
  cases k with
  | zero =>
    cases hrun
    exact ⟨u, [], rfl, by simp, by simp, hagree.phase, hagree.busy, nofun⟩
  | succ k =>
    obtain ⟨s1, hs1, hrest⟩ := step_of_run_succ hrun
    obtain ⟨u1, hu1, h1, hnews1⟩ := step_follows_word hagree hs hsb hsw hs1
    obtain ⟨v, hv, hstep, hnews⟩ := run_follows h1 (by rwa [noStepWritesTheConfiguration s s1 hs1]) hrest
    obtain ⟨new, htrace, hvtrace⟩ := hnews1.trans hnews
    exact ⟨v, new, (run_step hu1).trans hv, htrace, hvtrace, hstep.agree.phase, hstep.agree.busy,
      fun _ hidle => hstep.outcome (by rw [hidle]; rfl)⟩

end Sys2Proof.Machine
end
